-- ==== Sys2Proof/Word.lean ====
section
/-!
DEFINITION. The widths of the block's quantities (00_scope R6, R8): bytes, 4-bit channel numbers and
unsigned 16-bit values. All are unsigned; nothing in the block is signed.
-/

namespace Sys2Proof

/-- A byte: 8 bits, bit 7 the most significant (R8). -/
abbrev Byte := BitVec 8

/-- A channel (pin) number, the low nibble of a channel command byte (R6, R13). -/
abbrev U4 := BitVec 4

/-- A decoded value or a character code (R8, R65, R74). -/
abbrev U16 := BitVec 16

end Sys2Proof
end

