-- ==== Sys2Proof/Config.lean ====
section
/-!
DEFINITION. What one implementation fixes: the single parameter `SYSEX_MAX` (00_scope R5). It is plain
data that the state carries unchanged, so every claim about all states is a claim about all values of
the parameter (log 3). Nothing else differs between implementations (R6), and the spec leaves no value
free, so there is no opaque constant here.
-/

namespace Sys2Proof

/-- `SYSEX_MAX`: "natural number >= 1, or `unbounded`" (R5). -/
inductive Limit where
  | unbounded
  | atMost (n : Nat)
  deriving DecidableEq, Repr

/-- The parameters of one implementation of the block (R5, R25). -/
structure Config where
  sysexMax : Limit
  deriving DecidableEq, Repr

/-- The smallest value R5 admits for a finite `SYSEX_MAX` is 1. -/
abbrev Config.WF (c : Config) : Prop :=
  match c.sysexMax with
  | .unbounded => True
  | .atMost n => 1 ≤ n

end Sys2Proof
end

