-- ==== Sys2Proof/Machine/Wire.lean ====
section
/-!
DEFINITION. The constants of the wire format: command bytes (30_encoding R45), sysex sub-commands
(R47), pin modes (R48), version numbers (R49) and the terminator byte (R50).
-/

namespace Sys2Proof.Wire

/- Command byte values (R45). -/
abbrev digitalMessage : Byte := 0x90
abbrev reportAnalog : Byte := 0xC0
abbrev reportDigital : Byte := 0xD0
abbrev analogMessage : Byte := 0xE0
abbrev startSysex : Byte := 0xF0
abbrev setPinMode : Byte := 0xF4
abbrev endSysex : Byte := 0xF7
abbrev reportVersion : Byte := 0xF9
abbrev systemReset : Byte := 0xFF

/- Sysex sub-command values (R47). -/
abbrev analogMappingQuery : Byte := 0x69
abbrev analogMappingResponse : Byte := 0x6A
abbrev capabilityQuery : Byte := 0x6B
abbrev capabilityResponse : Byte := 0x6C
abbrev stringData : Byte := 0x71
abbrev reportFirmware : Byte := 0x79

/- Pin mode constants (R48); `pinShift` is used by no rule. -/
abbrev pinInput : Byte := 0
abbrev pinOutput : Byte := 1
abbrev pinAnalog : Byte := 2
abbrev pinPwm : Byte := 3
abbrev pinServo : Byte := 4
abbrev pinShift : Byte := 5
abbrev pinI2C : Byte := 6

/- Version constants (R49). -/
abbrev protocolMajor : Byte := 2
abbrev protocolMinor : Byte := 3
abbrev firmwareMajor : Byte := 0
abbrev firmwareMinor : Byte := 1

/-- The name `"firmata-pi"` (R49, R137) as a text, a list of character codes (R74). The ten codes are
ASCII, which the spec itself supplies from general knowledge (93_implementation_defined G1).
PRESUMED (log 8), unsafe for claims about these twenty bytes only. -/
abbrev firmwareName : List U16 :=
  [0x66, 0x69, 0x72, 0x6D, 0x61, 0x74, 0x61, 0x2D, 0x70, 0x69]

/-- The per-pin terminator of a capability report and the "unmapped" marker of an analog-mapping
report (R50). -/
abbrev terminator : Byte := 127

end Sys2Proof.Wire
end

