-- ==== Sys2Proof/Syntax.lean ====
section
/-!
DEFINITION. The instructions: one constructor of `Instr` per row of spec/opcode_table.json, 45 rows in
five spaces (30_encoding R62), and the operand types of the pure ports (40_codec, 44_encoder). Every
constructor bears its row's mnemonic, letter for letter.
-/

namespace Sys2Proof

/-- The request of the `decodeValue` port: "0, 1 or 2 bytes"; a longer list cannot be presented
(R21, R67, decision D10). -/
inductive ValueBytes where
  | empty
  | one (b0 : Byte)
  | two (b0 b1 : Byte)
  deriving DecidableEq, Repr

/-- A PinCapability record, six fields (R135). A field is tested for presence, not for a non-zero
value. -/
structure PinCapability where
  digital : Bool := false
  analog : Option Byte := none
  pwm : Option Byte := none
  servo : Option Byte := none
  i2c : Bool := false
  analogMap : Option Byte := none
  deriving DecidableEq, Repr

/-- The nine operations of the pure units, in the order of their select codes (R61). -/
inductive PortOp where
  | decodeValue
  | decodeString
  | encodeString
  | encodeValue
  | firmataVersion
  | firmwareVersion
  | capabilityResponse
  | analogMappingResponse
  | sysexWrap
  deriving DecidableEq, Repr

/-- A request on a codec or encoder port (R21, R22) or of the wrapping helper (R107): the operation
with its operands. -/
inductive Request where
  | decodeValue (bytes : ValueBytes)
  | decodeString (bytes : List Byte)
  | encodeString (text : List U16)
  | encodeValue (values : List U16)
  | firmataVersion
  | firmwareVersion
  | capabilityResponse (pins : List PinCapability)
  | analogMappingResponse (pins : List PinCapability)
  | sysexWrap (sub : Byte) (payload : List Byte)
  deriving DecidableEq, Repr

/-- The instructions of the block: its inbound bytes as classified in each state, the second-level
decode of sysex frames, and the operation requests of its pure units (R7, R62). -/
inductive Instr where
  -- space `idle`
  | digitalMessage (ch : U4)
  | reportAnalog (ch : U4)
  | reportDigital (ch : U4)
  | analogMessage (ch : U4)
  | startSysex
  | setPinMode
  | endSysex_stray
  | reportVersion
  | systemReset
  | unknown_00_7F (x : BitVec 7)
  | unknown_80_8F (x : BitVec 4)
  | unknown_A0_BF (x : BitVec 5)
  | unknown_F1
  | unknown_F2
  | unknown_F3
  | unknown_F5
  | unknown_F6
  | unknown_F8
  | unknown_FA
  | unknown_FB
  | unknown_FC
  | unknown_FD
  | unknown_FE
  -- space `channel_data`
  | channelData_first (d : Byte)
  | channelData_second (d : Byte)
  -- space `sysex`
  | endSysex_complete
  | endSysex_empty
  | sysexData (d : Byte)
  | sysexData_oversized (d : Byte)
  -- space `subcommand`
  | analogMappingQuery
  | analogMappingResponse
  | capabilityQuery
  | capabilityResponse
  | stringData
  | reportFirmware
  | unknownSubcommand (x : Byte)
  -- space `port`
  | decodeValue (bytes : ValueBytes)
  | decodeString (bytes : List Byte)
  | encodeString (text : List U16)
  | encodeValue (values : List U16)
  | firmataVersion
  | firmwareVersion
  | capabilityResponse_build (pins : List PinCapability)
  | analogMappingResponse_build (pins : List PinCapability)
  | sysexWrap (sub : Byte) (payload : List Byte)
  deriving DecidableEq, Repr

end Sys2Proof
end

