-- ==== Sys2Proof/Machine/Operands.lean ====
section
/-!
DEFINITION. The operand forms: the two nibbles of a channel command byte (30_encoding R46, R54) and the
PAIR of two 7-bit bytes (R52) with its two primitives, unpacking and packing (40_codec R65, R66).
-/

namespace Sys2Proof

/-- Command identification of a channel command, `b & 0xF0` (R46, R54). -/
def baseOf (b : Byte) : Byte := b &&& 0xF0

/-- Channel extraction of a channel command, `b & 0x0F` (R46, R54), held in 4 bits (R13). -/
def chanOf (b : Byte) : U4 := (b &&& 0x0F).setWidth 4

/-- The command byte of a channel command, `base + ch` = `base | ch` (R46). -/
def commandByte (base : Byte) (ch : U4) : Byte := base ||| ch.setWidth 8

/-- A channel number as the 8-bit pin argument of an event, `zext_8(ch)` (R117, R128). -/
def pinOf (ch : U4) : Byte := ch.setWidth 8

/-- `join14(lo, hi) = zext_16(lo) | (zext_16(hi) << 7)`, computed at 16 bits, the bytes taken as they
are (R65, decision D8). -/
def join14 (lo hi : Byte) : U16 := lo.setWidth 16 ||| (hi.setWidth 16 <<< 7)

/-- The low group of `split14(v)`, `v & 0x7F` (R66). -/
def splitLo (v : U16) : Byte := (v &&& 0x7F).setWidth 8

/-- The high group of `split14(v)`, `v >> 7` (R66); within the required range it fits a byte. -/
def splitHi (v : U16) : Byte := (v >>> 7).setWidth 8

/-- A PAIR list: each value as its `(lo, hi)` pair, in input order (R32, R33, R68). -/
def splitPairs : List U16 → List Byte
  | [] => []
  | v :: vs => splitLo v :: splitHi v :: splitPairs vs

/-- Each consecutive pair joined, in order (R69). A last byte without a partner is not joined; the
operations that use this test the parity first. -/
def joinPairs : List Byte → List U16
  | lo :: hi :: rest => join14 lo hi :: joinPairs rest
  | _ => []

end Sys2Proof
end

