-- ==== Sys2Proof/WellFormed.lean ====
section
/-!
DEFINITION. Which instructions an encoding can stand for. Most operand types hold exactly the values
their row's free bits hold; the three checks below are the rows whose free bits exclude a value
(30_encoding R53, R56).
-/

namespace Sys2Proof

/-- The six sub-command values that have rows of their own (R47). -/
def namedSubcommands : List Byte :=
  [Wire.analogMappingQuery, Wire.analogMappingResponse, Wire.capabilityQuery,
    Wire.capabilityResponse, Wire.stringData, Wire.reportFirmware]

/-- The check of each constructor: a sysex data byte is not `endSysex` (R53, R101, R104), and the
catch-all sub-command is neither `endSysex` nor one of the six named values (R56, R62). -/
def Instr.wf : Instr → Bool
  | .sysexData d => d != Wire.endSysex
  | .sysexData_oversized d => d != Wire.endSysex
  | .unknownSubcommand x => x != Wire.endSysex && !namedSubcommands.contains x
  | .digitalMessage _ | .reportAnalog _ | .reportDigital _ | .analogMessage _
  | .startSysex | .setPinMode | .endSysex_stray | .reportVersion | .systemReset
  | .unknown_00_7F _ | .unknown_80_8F _ | .unknown_A0_BF _
  | .unknown_F1 | .unknown_F2 | .unknown_F3 | .unknown_F5 | .unknown_F6 | .unknown_F8
  | .unknown_FA | .unknown_FB | .unknown_FC | .unknown_FD | .unknown_FE
  | .channelData_first _ | .channelData_second _ | .endSysex_complete | .endSysex_empty
  | .analogMappingQuery | .analogMappingResponse | .capabilityQuery | .capabilityResponse
  | .stringData | .reportFirmware
  | .decodeValue _ | .decodeString _ | .encodeString _ | .encodeValue _
  | .firmataVersion | .firmwareVersion
  | .capabilityResponse_build _ | .analogMappingResponse_build _ | .sysexWrap _ _ => true

end Sys2Proof
end

