-- ==== Sys2Proof/Decode.lean ====
section
/-!
DEFINITION. Decoding (30_encoding R53, R56, R61, R62) and, after it, encoding. What a byte means depends
on the space it is read in (R53): the FSM state with `len(col)` and `SYSEX_MAX`, or the sub-command place
of a completed frame. A request names its operation by the port it uses (R61).
-/

namespace Sys2Proof

/-- `n < SYSEX_MAX`, always true when `SYSEX_MAX` is unbounded (R101, R104). -/
def Limit.above (lim : Limit) (n : Nat) : Bool :=
  match lim with
  | .unbounded => true
  | .atMost m => decide (n < m)

/-- `n <= SYSEX_MAX` (R14, R15). -/
def Limit.holds (lim : Limit) (n : Nat) : Bool :=
  match lim with
  | .unbounded => true
  | .atMost m => decide (n ≤ m)

/-- The five spaces of the opcode table (R62), with what the field `condition` of its rows reads:
`len(col)` and `SYSEX_MAX`. -/
inductive Space where
  | idle
  | channelData (len : Nat)
  | sysex (len : Nat) (max : Limit)
  | subcommand
  | port
  deriving DecidableEq, Repr

/-- What is decoded: a byte, or a request on a port. -/
inductive Code where
  | byte (b : Byte)
  | request (r : Request)
  deriving DecidableEq, Repr

/-- Why the decoder refuses a code; none of these can reach the block (its `rx` port carries bytes, its
request ports carry requests: R16, R21, R22, R61). -/
inductive Reject where
  /-- a request where the space reads a byte -/
  | requestForByte
  /-- a byte where the space reads a request -/
  | byteForRequest
  /-- an operation-select code that R61 gives to no operation -/
  | noSuchOperation (code : Nat)
  deriving DecidableEq, Repr

/-- `classify(b)` in `Idle` (R53). The lines of R53 are disjoint and cover all 256 values; the unknown
values are told apart as the opcode table tells them apart (R62). -/
def decodeIdle (b : Byte) : Instr :=
  if b = Wire.startSysex then .startSysex
  else if b = Wire.setPinMode then .setPinMode
  else if b = Wire.endSysex then .endSysex_stray
  else if b = Wire.reportVersion then .reportVersion
  else if b = Wire.systemReset then .systemReset
  else if baseOf b = Wire.digitalMessage then .digitalMessage (chanOf b)
  else if baseOf b = Wire.reportAnalog then .reportAnalog (chanOf b)
  else if baseOf b = Wire.reportDigital then .reportDigital (chanOf b)
  else if baseOf b = Wire.analogMessage then .analogMessage (chanOf b)
  else if b &&& 0x80 = 0x00 then .unknown_00_7F (b.setWidth 7)
  else if b &&& 0xF0 = 0x80 then .unknown_80_8F (b.setWidth 4)
  else if b &&& 0xE0 = 0xA0 then .unknown_A0_BF (b.setWidth 5)
  else if b = 0xF1 then .unknown_F1
  else if b = 0xF2 then .unknown_F2
  else if b = 0xF3 then .unknown_F3
  else if b = 0xF5 then .unknown_F5
  else if b = 0xF6 then .unknown_F6
  else if b = 0xF8 then .unknown_F8
  else if b = 0xFA then .unknown_FA
  else if b = 0xFB then .unknown_FB
  else if b = 0xFC then .unknown_FC
  else if b = 0xFD then .unknown_FD
  else .unknown_FE

/-- A byte in `AwaitingChannelData`: always data (R53, R90, decision D3); it completes the frame exactly
when one byte is held already (R91). Under R15(b) `len` is 0 or 1, and the first row is then `len = 0`
as the table has it (DEDUCED, log 5). -/
def decodeChannelData (len : Nat) (b : Byte) : Instr :=
  if len = 1 then .channelData_second b else .channelData_first b

/-- A byte in `AwaitingSysex` (R53, R80): `0xF7` ends the frame, every other value is data, stored while
`len(col) < SYSEX_MAX` (R101). Under R15(c) the remaining case is `len(col) = SYSEX_MAX`, rule R104
(DEDUCED, log 5). -/
def decodeSysex (len : Nat) (max : Limit) (b : Byte) : Instr :=
  if b = Wire.endSysex then (if len = 0 then .endSysex_empty else .endSysex_complete)
  else if max.above len then .sysexData b
  else .sysexData_oversized b

/-- Second-level decode: the sub-command compared on all 8 bits with the six values of R47 (R56); every
other value is the catch-all row. -/
def decodeSubcommand (b : Byte) : Instr :=
  if b = Wire.analogMappingQuery then .analogMappingQuery
  else if b = Wire.analogMappingResponse then .analogMappingResponse
  else if b = Wire.capabilityQuery then .capabilityQuery
  else if b = Wire.capabilityResponse then .capabilityResponse
  else if b = Wire.stringData then .stringData
  else if b = Wire.reportFirmware then .reportFirmware
  else .unknownSubcommand b

/-- A request is the operation of the port it is made on (R61). -/
def decodeRequest : Request → Instr
  | .decodeValue bytes => .decodeValue bytes
  | .decodeString bytes => .decodeString bytes
  | .encodeString text => .encodeString text
  | .encodeValue values => .encodeValue values
  | .firmataVersion => .firmataVersion
  | .firmwareVersion => .firmwareVersion
  | .capabilityResponse pins => .capabilityResponse_build pins
  | .analogMappingResponse pins => .analogMappingResponse_build pins
  | .sysexWrap sub payload => .sysexWrap sub payload

/-- The decoder: total on every code in every space, rejecting by name. -/
def decode : Space → Code → Except Reject Instr
  | .idle, .byte b => .ok (decodeIdle b)
  | .channelData len, .byte b => .ok (decodeChannelData len b)
  | .sysex len max, .byte b => .ok (decodeSysex len max b)
  | .subcommand, .byte b => .ok (decodeSubcommand b)
  | .port, .request r => .ok (decodeRequest r)
  | .port, .byte _ => .error .byteForRequest
  | .idle, .request _ => .error .requestForByte
  | .channelData _, .request _ => .error .requestForByte
  | .sysex _ _, .request _ => .error .requestForByte
  | .subcommand, .request _ => .error .requestForByte

/-- The operation-select code of each operation (R61); labels of the spec, on no wire. -/
def PortOp.selectCode : PortOp → BitVec 4
  | .decodeValue => 0
  | .decodeString => 1
  | .encodeString => 2
  | .encodeValue => 3
  | .firmataVersion => 4
  | .firmwareVersion => 5
  | .capabilityResponse => 6
  | .analogMappingResponse => 7
  | .sysexWrap => 8

/-- The operation a select code names; the codes 9 to 15 name none (R61). -/
def decodeSelect (code : Nat) : Except Reject PortOp :=
  match code with
  | 0 => .ok .decodeValue
  | 1 => .ok .decodeString
  | 2 => .ok .encodeString
  | 3 => .ok .encodeValue
  | 4 => .ok .firmataVersion
  | 5 => .ok .firmwareVersion
  | 6 => .ok .capabilityResponse
  | 7 => .ok .analogMappingResponse
  | 8 => .ok .sysexWrap
  | n => .error (.noSuchOperation n)

/-- The request of an operation with operands of zeros: the form an opcode-table word of that row stands
for, since the table gives operands no bits. -/
def PortOp.bareRequest : PortOp → Request
  | .decodeValue => .decodeValue .empty
  | .decodeString => .decodeString []
  | .encodeString => .encodeString []
  | .encodeValue => .encodeValue []
  | .firmataVersion => .firmataVersion
  | .firmwareVersion => .firmwareVersion
  | .capabilityResponse => .capabilityResponse []
  | .analogMappingResponse => .analogMappingResponse []
  | .sysexWrap => .sysexWrap 0 []

/-- Which space's rows a space reads, with the field `condition` of the row (R62): the instruction is
the one this space's classification may select. -/
def Space.selects (sp : Space) (i : Instr) : Bool :=
  match i with
  | .digitalMessage _ | .reportAnalog _ | .reportDigital _ | .analogMessage _
  | .startSysex | .setPinMode | .endSysex_stray | .reportVersion | .systemReset
  | .unknown_00_7F _ | .unknown_80_8F _ | .unknown_A0_BF _
  | .unknown_F1 | .unknown_F2 | .unknown_F3 | .unknown_F5 | .unknown_F6 | .unknown_F8
  | .unknown_FA | .unknown_FB | .unknown_FC | .unknown_FD | .unknown_FE =>
    match sp with
    | .idle => true
    | _ => false
  | .channelData_first _ =>
    match sp with
    | .channelData len => len != 1
    | _ => false
  | .channelData_second _ =>
    match sp with
    | .channelData len => len == 1
    | _ => false
  | .endSysex_complete =>
    match sp with
    | .sysex len _ => len != 0
    | _ => false
  | .endSysex_empty =>
    match sp with
    | .sysex len _ => len == 0
    | _ => false
  | .sysexData d =>
    match sp with
    | .sysex len max => d != Wire.endSysex && max.above len
    | _ => false
  | .sysexData_oversized d =>
    match sp with
    | .sysex len max => d != Wire.endSysex && !max.above len
    | _ => false
  | .analogMappingQuery | .analogMappingResponse | .capabilityQuery | .capabilityResponse
  | .stringData | .reportFirmware | .unknownSubcommand _ =>
    match sp with
    | .subcommand => true
    | _ => false
  | .decodeValue _ | .decodeString _ | .encodeString _ | .encodeValue _
  | .firmataVersion | .firmwareVersion
  | .capabilityResponse_build _ | .analogMappingResponse_build _ | .sysexWrap _ _ =>
    match sp with
    | .port => true
    | _ => false

/-! ### Encoding, from the same tables (R45, R47, R52, R61) -/

/-- The code of an instruction: its byte, or its request. -/
def encode : Instr → Code
  | .digitalMessage ch => .byte (commandByte Wire.digitalMessage ch)
  | .reportAnalog ch => .byte (commandByte Wire.reportAnalog ch)
  | .reportDigital ch => .byte (commandByte Wire.reportDigital ch)
  | .analogMessage ch => .byte (commandByte Wire.analogMessage ch)
  | .startSysex => .byte Wire.startSysex
  | .setPinMode => .byte Wire.setPinMode
  | .endSysex_stray => .byte Wire.endSysex
  | .reportVersion => .byte Wire.reportVersion
  | .systemReset => .byte Wire.systemReset
  | .unknown_00_7F x => .byte (x.setWidth 8)
  | .unknown_80_8F x => .byte (0x80 ||| x.setWidth 8)
  | .unknown_A0_BF x => .byte (0xA0 ||| x.setWidth 8)
  | .unknown_F1 => .byte 0xF1
  | .unknown_F2 => .byte 0xF2
  | .unknown_F3 => .byte 0xF3
  | .unknown_F5 => .byte 0xF5
  | .unknown_F6 => .byte 0xF6
  | .unknown_F8 => .byte 0xF8
  | .unknown_FA => .byte 0xFA
  | .unknown_FB => .byte 0xFB
  | .unknown_FC => .byte 0xFC
  | .unknown_FD => .byte 0xFD
  | .unknown_FE => .byte 0xFE
  | .channelData_first d => .byte d
  | .channelData_second d => .byte d
  | .endSysex_complete => .byte Wire.endSysex
  | .endSysex_empty => .byte Wire.endSysex
  | .sysexData d => .byte d
  | .sysexData_oversized d => .byte d
  | .analogMappingQuery => .byte Wire.analogMappingQuery
  | .analogMappingResponse => .byte Wire.analogMappingResponse
  | .capabilityQuery => .byte Wire.capabilityQuery
  | .capabilityResponse => .byte Wire.capabilityResponse
  | .stringData => .byte Wire.stringData
  | .reportFirmware => .byte Wire.reportFirmware
  | .unknownSubcommand x => .byte x
  | .decodeValue bytes => .request (.decodeValue bytes)
  | .decodeString bytes => .request (.decodeString bytes)
  | .encodeString text => .request (.encodeString text)
  | .encodeValue values => .request (.encodeValue values)
  | .firmataVersion => .request .firmataVersion
  | .firmwareVersion => .request .firmwareVersion
  | .capabilityResponse_build pins => .request (.capabilityResponse pins)
  | .analogMappingResponse_build pins => .request (.analogMappingResponse pins)
  | .sysexWrap sub payload => .request (.sysexWrap sub payload)

/-- The operation a request is made on. -/
def Request.op : Request → PortOp
  | .decodeValue _ => .decodeValue
  | .decodeString _ => .decodeString
  | .encodeString _ => .encodeString
  | .encodeValue _ => .encodeValue
  | .firmataVersion => .firmataVersion
  | .firmwareVersion => .firmwareVersion
  | .capabilityResponse _ => .capabilityResponse
  | .analogMappingResponse _ => .analogMappingResponse
  | .sysexWrap _ _ => .sysexWrap

/-- The bits the opcode table gives a code: the byte, or the 4-bit select code (R61, R62). -/
def Code.bits : Code → Byte
  | .byte b => b
  | .request r => r.op.selectCode.setWidth 8

/-- The opcode table's `match` and `mask` of each row: a code matches when `bits & mask = match` (R62). -/
def tablePattern : Instr → Byte × Byte
  | .digitalMessage _ => (0x90, 0xF0)
  | .reportAnalog _ => (0xC0, 0xF0)
  | .reportDigital _ => (0xD0, 0xF0)
  | .analogMessage _ => (0xE0, 0xF0)
  | .startSysex => (0xF0, 0xFF)
  | .setPinMode => (0xF4, 0xFF)
  | .endSysex_stray => (0xF7, 0xFF)
  | .reportVersion => (0xF9, 0xFF)
  | .systemReset => (0xFF, 0xFF)
  | .unknown_00_7F _ => (0x00, 0x80)
  | .unknown_80_8F _ => (0x80, 0xF0)
  | .unknown_A0_BF _ => (0xA0, 0xE0)
  | .unknown_F1 => (0xF1, 0xFF)
  | .unknown_F2 => (0xF2, 0xFF)
  | .unknown_F3 => (0xF3, 0xFF)
  | .unknown_F5 => (0xF5, 0xFF)
  | .unknown_F6 => (0xF6, 0xFF)
  | .unknown_F8 => (0xF8, 0xFF)
  | .unknown_FA => (0xFA, 0xFF)
  | .unknown_FB => (0xFB, 0xFF)
  | .unknown_FC => (0xFC, 0xFF)
  | .unknown_FD => (0xFD, 0xFF)
  | .unknown_FE => (0xFE, 0xFF)
  | .channelData_first _ => (0x00, 0x00)
  | .channelData_second _ => (0x00, 0x00)
  | .endSysex_complete => (0xF7, 0xFF)
  | .endSysex_empty => (0xF7, 0xFF)
  | .sysexData _ => (0x00, 0x00)
  | .sysexData_oversized _ => (0x00, 0x00)
  | .analogMappingQuery => (0x69, 0xFF)
  | .analogMappingResponse => (0x6A, 0xFF)
  | .capabilityQuery => (0x6B, 0xFF)
  | .capabilityResponse => (0x6C, 0xFF)
  | .stringData => (0x71, 0xFF)
  | .reportFirmware => (0x79, 0xFF)
  | .unknownSubcommand _ => (0x00, 0x00)
  | .decodeValue _ => (0x0, 0xF)
  | .decodeString _ => (0x1, 0xF)
  | .encodeString _ => (0x2, 0xF)
  | .encodeValue _ => (0x3, 0xF)
  | .firmataVersion => (0x4, 0xF)
  | .firmwareVersion => (0x5, 0xF)
  | .capabilityResponse_build _ => (0x6, 0xF)
  | .analogMappingResponse_build _ => (0x7, 0xF)
  | .sysexWrap _ _ => (0x8, 0xF)

/-! ### Words of the opcode table -/

/-- The place a word of the opcode table is read in, with nothing but its bits known. The table's five
spaces use the same words (R62), so a convention must pick one (DESIGN CHOICE, log 6): fewer than 8 bits are
an operation-select code (R61); of the 8-bit words, a named sub-command is read in the sub-command place, 1 to
8 as the select code of their low four bits, and every other word as a byte in `Idle`, the state after reset
(R27). The block's own decoding, `decode`, never uses this. -/
def tableCode (nbits w : Nat) : Except Reject (Space × Code) :=
  let b : Byte := BitVec.ofNat 8 w
  if nbits < 8 ∨ (1 ≤ b.toNat ∧ b.toNat ≤ 8) then
    match decodeSelect (w % 16) with
    | .ok op => .ok (.port, .request op.bareRequest)
    | .error r => .error r
  else if namedSubcommands.contains b then .ok (.subcommand, .byte b)
  else .ok (.idle, .byte b)

/-- The instruction the decoder reads from a word of the opcode table. -/
def decodeTableWord (nbits w : Nat) : Option Instr :=
  match tableCode nbits w with
  | .ok (sp, c) => (decode sp c).toOption
  | .error _ => none

end Sys2Proof
end

