-- ==== Sys2Proof/Machine/State.lean ====
section
/-!
DEFINITION. The state of one instance as plain data (10_state), the records its ports carry, and the
reasons a step can stop. Nothing in the block halts it, so `Fault` is empty (00_scope R7, 41_tokenizer R95).
-/

namespace Sys2Proof.Machine

/-- The FSM state register's three values (R11). -/
inductive Fsm where
  | idle
  | awaitingChannelData
  | awaitingSysex
  deriving DecidableEq, Repr

/-- The conditions of the block, the complete list (R150). -/
inductive Condition where
  | truncatedPayload
  | invalidStringLength
  | oversizedFrame
  | valueOutOfRange
  | unknownCommand
  deriving DecidableEq, Repr

/-- A Frame record (R18). The `sysex` kind has no channel field. -/
inductive Frame where
  | channel (command : Byte) (chan : U4) (data : List Byte)
  | sysex (command : Byte) (data : List Byte)
  deriving DecidableEq, Repr

/-- A ProtocolEvent: one of the eleven names with its arguments (R19, R128). -/
inductive Event where
  | reportVersion
  | analogMessage (pin : Byte) (value : U16)
  | digitalMessage (pin : Byte) (value : U16)
  | setPinMode (pin mode : Byte)
  | systemReset
  | reportAnalog (pin arg : Byte)
  | reportDigital (pin arg : Byte)
  | reportFirmware
  | stringData (text : List U16)
  | capabilityQuery
  | analogMappingQuery
  deriving DecidableEq, Repr

/-- What a codec or encoder port answers: a value, a text, bytes, or the error of the operation
(R21, R22, R73). -/
inductive Answer where
  | value (v : U16)
  | text (codes : List U16)
  | bytes (bs : List Byte)
  | failed (c : Condition)
  deriving DecidableEq, Repr

/-- One response transaction: the port it belongs to and what it carries (R21, R22). -/
structure Response where
  port : PortOp
  answer : Answer
  deriving DecidableEq, Repr

/-- The transactions of ONE step: at most one on each output port (R18 to R22). They are transactions,
not levels: nothing remembers them (R25), and no rule reads them in a later step. -/
structure Ports where
  frame : Option Frame
  event : Option Event
  err : Option Condition
  resp : Option Response
  deriving DecidableEq, Repr

/-- No transaction on any output port (R27). -/
def Ports.quiet : Ports :=
  { frame := none, event := none, err := none, resp := none }

/-- What the host can do to the block between two steps: a byte on `rx` (R16), a transaction on `rst`
(R17), a request on a port of the pure units (R21, R22, R107). -/
inductive Input where
  | rx (b : Byte)
  | rst
  | request (r : Request)
  deriving DecidableEq, Repr

/-- The collected-byte buffer (R14), the block's only storage (R30). Address `i` of its address space is
index `i`, 0 the oldest byte (R31); the addresses are exactly 0 to `length - 1`, so equal buffers are equal
lists. -/
abbrev Memory := List Byte

/-- The form the buffer keeps while a sysex frame is collected: `len(col) <= SYSEX_MAX` (R14, R15). -/
abbrev Memory.wf (lim : Limit) (m : Memory) : Bool := lim.holds m.length

/-- The state of one instance. `st`, `cmd`, `chan`, `col` are the block's whole state (R10). `out` is the
last step's transactions (log 2), `pos` the ghost byte counter R24 allows (log 9), `pending` what the host
has offered and the block has not taken (log 1), `cfg` the fixed parameter (R5, log 3). -/
structure State where
  st : Fsm
  cmd : Byte
  chan : U4
  col : Memory
  out : Ports
  pos : Nat
  pending : List Input
  cfg : Config
  deriving DecidableEq, Repr

/-- The state after reset (R27, R175). `pending` empty and `SYSEX_MAX` unbounded are DESIGN CHOICES
(log 1, safe; log 3, unsafe). -/
def State.reset : State :=
  { st := .idle, cmd := 0x00, chan := 0, col := [], out := Ports.quiet, pos := 0,
    pending := [], cfg := { sysexMax := .unbounded } }

/-- Why a step could stop with a fault: it cannot. No condition of R150 halts the block and no state is
stuck (R7, R95), so the type has no constructor. -/
inductive Fault where
  deriving DecidableEq, Repr

/-- Why an instruction could be refused. No step refuses: the first reason is raised by no arm of `exec`,
the other two only where `exec` or the decoder is handed something the block cannot be handed. -/
inductive Refusal where
  /-- raised by an arm of `exec` that has no meaning yet (there is none); safe -/
  | notModelled (mnemonic : String)
  /-- raised by a meaning in a state whose classification does not select its row (the table's `space`
  and `condition`, R62); no step gets there; safe -/
  | notSelected
  /-- raised by the step when the decoder rejects a code; no step gets there; safe -/
  | undecodable (r : Reject)
  deriving DecidableEq, Repr

end Sys2Proof.Machine
end

