-- ==== Sys2Proof/Machine/Flags.lean ====
section
/-!
DEFINITION. The block has no status flags and no condition codes (10_state R25); no rule writes one. What
its rules test instead is here: which space the state reads a byte in (30_encoding R53), the parity of a
string payload (40_codec R69), the 14-bit range (R68, R70), and whether a condition is reported and under
which number (60_exceptions R150).
-/

namespace Sys2Proof.Machine

/-- The space the next byte on `rx` is read in (R53, R80). -/
def State.space (s : State) : Space :=
  match s.st with
  | .idle => .idle
  | .awaitingChannelData => .channelData s.col.length
  | .awaitingSysex => .sysex s.col.length s.cfg.sysexMax

/-- The parity test of a string payload: "bytes must have even length" (R36, R69). -/
def oddLength (bytes : List Byte) : Bool := bytes.length % 2 == 1

/-- The range test of the encoding operations: some element exceeds 16383 (R68, R70). -/
def outOfRange (values : List U16) : Bool := values.any (fun v => decide (16383 < v.toNat))

/-- "reported?" of R150: every condition but `UnknownCommand` (R153). -/
def Condition.reported : Condition → Bool
  | .truncatedPayload => true
  | .invalidStringLength => true
  | .oversizedFrame => true
  | .valueOutOfRange => true
  | .unknownCommand => false

/-- The number of a condition on a numbered port (R150, decision D13); `UnknownCommand` has none. -/
def Condition.code : Condition → Option Nat
  | .truncatedPayload => some 1
  | .invalidStringLength => some 2
  | .oversizedFrame => some 3
  | .valueOutOfRange => some 4
  | .unknownCommand => none

/-- What a numbered `err` port shows: 0 for no error (R150, decision D13). -/
def Ports.errorCode (p : Ports) : Nat :=
  match p.err with
  | some c => c.code.getD 0
  | none => 0

end Sys2Proof.Machine
end

