-- ==== Sys2Proof/Machine/Ops.lean ====
section
/-!
DEFINITION. The operations every meaning is built from: the output ports (00_scope R9), the buffer
(20_memory R31), the sequencing register, raising a condition (60_exceptions R159), and how a step takes an
input (41_tokenizer R93).
-/

namespace Sys2Proof.Machine

/-! ### The buffer (R9, R31): `MemRead`, `append`, `col <- []` -/

/-- `MemRead(addr, n)`: `col[addr : addr+n]`, without side effect (R9, R39). -/
def Memory.read (m : Memory) (addr n : Nat) : List Byte := (m.drop addr).take n

/-- The byte at one address; none where the address space has no such address (R31). -/
def Memory.readByte (m : Memory) (addr : Nat) : Option Byte := m[addr]?

/-- `append(col, b)`, which is `MemWrite(len(col), 1, b)` (R9). -/
def State.append (s : State) (b : Byte) : State := { s with col := s.col ++ [b] }

/-- `col <- []` (R9). -/
def State.clearBuffer (s : State) : State := { s with col := [] }

/-- `st <- target` (R9). -/
def State.goto (s : State) (target : Fsm) : State := { s with st := target }

/-- The return to `Idle` with an empty buffer, the end of every frame (R91, R102, R104); `cmd` and `chan`
are left as they are. -/
def State.backToIdle (s : State) : State := s.clearBuffer.goto .idle

/-- The start of channel-track collection: `cmd <- command; chan <- ch; col <- [];
st <- AwaitingChannelData` (R81 to R85). -/
def State.beginChannel (s : State) (command : Byte) (ch : U4) : State :=
  { s with cmd := command, chan := ch, col := [], st := .awaitingChannelData }

/-! ### The output ports (R9) -/

/-- `emit Frame(...)`. -/
def State.emitFrame (s : State) (f : Frame) : State := { s with out := { s.out with frame := some f } }

/-- `emit Event(...)`. -/
def State.emitEvent (s : State) (e : Event) : State := { s with out := { s.out with event := some e } }

/-- A response on the port of a pure operation (R21, R22). -/
def State.respond (s : State) (r : Response) : State := { s with out := { s.out with resp := some r } }

/-- `raise E` (R9): the one way any condition is taken. It drives `err` and writes nothing else: nothing is
saved, no mode is switched, nothing is masked, control goes nowhere (R159), and there is no return (R160). The
forced return to `Idle` of `OversizedFrame` (R159) is written by the row that raises it (R104).
`UnknownCommand` is swallowed (R153). -/
def State.raise (s : State) (c : Condition) : State :=
  if c.reported then { s with out := { s.out with err := some c } } else s

/-- `drop`: the byte is consumed and nothing changes; the unreported condition `UnknownCommand`
(R9, R150, R153). -/
def State.drop (s : State) : State := s.raise .unknownCommand

/-! ### Outcomes -/

/-- Run `k` on the next state of an outcome; a stop stays a stop. -/
def andThen (o : Host.Outcome State Fault Refusal) (k : State → Host.Outcome State Fault Refusal) :
    Host.Outcome State Fault Refusal :=
  match o with
  | .next s => k s
  | .fault f => .fault f
  | .refused r => .refused r

/-- A row's meaning where the state's classification selects the row (the table's `space` and
`condition`, R62), and the refusal `notSelected` elsewhere, where the spec gives the row no effect (log 4). -/
def whenSelected (i : Instr) (s t : State) : Host.Outcome State Fault Refusal :=
  if s.space.selects i then .next t else .refused .notSelected

/-! ### Taking an input -/

/-- The state in which an input other than a byte is processed: it is no longer pending, and no
transaction of an earlier step is on the ports (R25). -/
def State.take (s : State) (rest : List Input) : State :=
  { s with pending := rest, out := Ports.quiet }

/-- The state in which a byte is processed: as `take`, and the ghost counter counts it (R24). -/
def State.accept (s : State) (rest : List Input) : State :=
  { s with pending := rest, out := Ports.quiet, pos := s.pos + 1 }

/-- The host offers a chunk on `rx`: its bytes, in order, behind whatever is already offered
(R16, R41, R93). -/
def State.offer (s : State) (bytes : List Byte) : State :=
  { s with pending := s.pending ++ bytes.map .rx }

end Sys2Proof.Machine
end

