-- ==== Sys2Proof/Machine/Codec.lean ====
section
/-!
DEFINITION. The Payload Codec (40_codec): four pure operations on their ports. None reads or writes `st`,
`cmd`, `chan` or `col`; each request gets exactly one response, a result or one named error (R73).
-/

namespace Sys2Proof.Machine

/-- `decodeValue(bytes) -> u16`: `TruncatedPayload` on fewer than two bytes (R67). -/
def decodeValue : ValueBytes → Except Condition U16
  | .empty => .error .truncatedPayload
  | .one _ => .error .truncatedPayload
  | .two b0 b1 => .ok (join14 b0 b1)

/-- `encodeValue(values) -> bytes`: no bytes at all, not a prefix, when some element exceeds 16383 (R68). -/
def encodeValue (values : List U16) : Except Condition (List Byte) :=
  if outOfRange values then .error .valueOutOfRange else .ok (splitPairs values)

/-- `decodeString(bytes) -> text`: `InvalidStringLength` on an odd length (R69). -/
def decodeString (bytes : List Byte) : Except Condition (List U16) :=
  if oddLength bytes then .error .invalidStringLength else .ok (joinPairs bytes)

/-- `encodeString(text) -> bytes`: fails on a code above 16383 and does not truncate (R70). -/
def encodeString (text : List U16) : Except Condition (List Byte) :=
  if outOfRange text then .error .valueOutOfRange else .ok (splitPairs text)

/-- The response of a pure operation: the result, or the error, which is also the `err` transaction of
the request (R20, R21, R159; DESIGN CHOICE, log 10). -/
def answer (op : PortOp) (r : Except Condition Answer) (s : State) : State :=
  match r with
  | .ok a => s.respond { port := op, answer := a }
  | .error c => (s.respond { port := op, answer := .failed c }).raise c

/-- Row `decodeValue` (R67). -/
def execDecodeValue (bytes : ValueBytes) (s : State) : Host.Outcome State Fault Refusal :=
  .next (answer .decodeValue ((decodeValue bytes).map .value) s)

/-- Row `decodeString` (R69). -/
def execDecodeString (bytes : List Byte) (s : State) : Host.Outcome State Fault Refusal :=
  .next (answer .decodeString ((decodeString bytes).map .text) s)

/-- Row `encodeString` (R70). -/
def execEncodeString (text : List U16) (s : State) : Host.Outcome State Fault Refusal :=
  .next (answer .encodeString ((encodeString text).map .bytes) s)

/-- Row `encodeValue` (R68). -/
def execEncodeValue (values : List U16) (s : State) : Host.Outcome State Fault Refusal :=
  .next (answer .encodeValue ((encodeValue values).map .bytes) s)

end Sys2Proof.Machine
end

