-- ==== Sys2Proof/Machine/Decoder.lean ====
section
/-!
DEFINITION. The Protocol Decoder (43_decoder): a function from a frame to nothing, an event or an error
(R131), run in the step that emitted the frame (R115, R129). The channel-kind handlers are R116 to R122; the
sysex-kind handlers are the rows of the opcode table's space `subcommand`, R123 to R127, whose operand is the
frame on the `frame` port.
-/

namespace Sys2Proof.Machine

/-- What a handler yields (R129, R131). -/
inductive Reaction where
  | nothing
  | event (e : Event)
  | error (c : Condition)
  deriving DecidableEq, Repr

/-- Drive the event or the error port with what a handler yields; a frame without a handler is dropped,
the unreported `UnknownCommand` (R127, R153). -/
def react (s : State) : Reaction → State
  | .nothing => s.drop
  | .event e => s.emitEvent e
  | .error c => s.raise c

/-- An event that carries a decoded value: `decodeValue([d0, d1])` (R117, R118). -/
def valueReaction (mk : U16 → Event) (d0 d1 : Byte) : Reaction :=
  match decodeValue (.two d0 d1) with
  | .ok v => .event (mk v)
  | .error c => .error c

/-- The handlers of channel-kind frames, looked up by command (R115 to R122). A channel frame has two data
bytes or none (R18); any other shape or command is no line of R115's table (R127; DEDUCED, log 11). -/
def channelReaction (command : Byte) (chan : U4) (data : List Byte) : Reaction :=
  match data with
  | [] =>
    if command = Wire.reportVersion then .event .reportVersion
    else if command = Wire.systemReset then .event .systemReset
    else .nothing
  | [d0, d1] =>
    if command = Wire.analogMessage then valueReaction (.analogMessage (pinOf chan)) d0 d1
    else if command = Wire.digitalMessage then valueReaction (.digitalMessage (pinOf chan)) d0 d1
    else if command = Wire.setPinMode then .event (.setPinMode d0 d1)
    else if command = Wire.reportAnalog then .event (.reportAnalog (pinOf chan) d0)
    else if command = Wire.reportDigital then .event (.reportDigital (pinOf chan) d0)
    else .nothing
  | _ => .nothing

/-- The `stringData` handler (R124). -/
def stringReaction (data : List Byte) : Reaction :=
  match decodeString data with
  | .ok text => .event (.stringData text)
  | .error c => .error c

/-- A sub-command row's meaning: its handler, on the payload of the sysex frame the step has emitted, where
that frame's sub-command is the row's; the refusal `notSelected` elsewhere (log 4). -/
def onSysexFrame (i : Instr) (s : State) (handler : List Byte → Reaction) :
    Host.Outcome State Fault Refusal :=
  match s.out.frame with
  | some (.sysex sub data) =>
    if decodeSubcommand sub = i then .next (react s (handler data)) else .refused .notSelected
  | some (.channel _ _ _) => .refused .notSelected
  | none => .refused .notSelected

/-- Row `reportFirmware` (R123): the payload is ignored, whatever it holds. -/
def execReportFirmware (s : State) : Host.Outcome State Fault Refusal :=
  onSysexFrame .reportFirmware s (fun _ => .event .reportFirmware)

/-- Row `stringData` (R124). -/
def execStringData (s : State) : Host.Outcome State Fault Refusal :=
  onSysexFrame .stringData s stringReaction

/-- Row `capabilityQuery` (R125): the payload is ignored. -/
def execCapabilityQuery (s : State) : Host.Outcome State Fault Refusal :=
  onSysexFrame .capabilityQuery s (fun _ => .event .capabilityQuery)

/-- Row `analogMappingQuery` (R126): the payload is ignored. -/
def execAnalogMappingQuery (s : State) : Host.Outcome State Fault Refusal :=
  onSysexFrame .analogMappingQuery s (fun _ => .event .analogMappingQuery)

/-- Row `analogMappingResponse` (R127): no inbound handler, the frame is dropped. -/
def execAnalogMappingResponse (s : State) : Host.Outcome State Fault Refusal :=
  onSysexFrame .analogMappingResponse s (fun _ => .nothing)

/-- Row `capabilityResponse` (R127): no inbound handler, the frame is dropped. -/
def execCapabilityResponse (s : State) : Host.Outcome State Fault Refusal :=
  onSysexFrame .capabilityResponse s (fun _ => .nothing)

/-- Row `unknownSubcommand` (R127): every other sub-command, the frame is dropped. -/
def execUnknownSubcommand (x : Byte) (s : State) : Host.Outcome State Fault Refusal :=
  onSysexFrame (.unknownSubcommand x) s (fun _ => .nothing)

end Sys2Proof.Machine
end

