-- ==== Sys2Proof/Machine/Sysex.lean ====
section
/-!
DEFINITION. The sysex frame assembler (42_sysex_assembler): the inbound track R100 to R106 and the outbound
wrapping R107, R108.
-/

namespace Sys2Proof.Machine

/-- Row `startSysex` (R100): the marker is not stored, `cmd` and `chan` are not written. -/
def execStartSysex (s : State) : Host.Outcome State Fault Refusal :=
  whenSelected .startSysex s (s.clearBuffer.goto .awaitingSysex)

/-- Row `sysexData` (R101): stored unchanged, whatever its value. -/
def execSysexData (d : Byte) (s : State) : Host.Outcome State Fault Refusal :=
  whenSelected (.sysexData d) s (s.append d)

/-- Row `sysexData_oversized` (R104): the byte is consumed and not stored. -/
def execSysexDataOversized (d : Byte) (s : State) : Host.Outcome State Fault Refusal :=
  whenSelected (.sysexData_oversized d) s (s.raise .oversizedFrame).backToIdle

/-- Row `endSysex_complete` (R102, R106): the first collected byte is the command, the rest the payload.
With nothing collected there is no `col[0]`; the row's condition excludes it. -/
def execEndSysexComplete (s : State) : Host.Outcome State Fault Refusal :=
  match s.col with
  | [] => .refused .notSelected
  | sub :: data => whenSelected .endSysex_complete s (s.emitFrame (.sysex sub data)).backToIdle

/-- Row `endSysex_empty` (R103): no frame, no event, no error; back to `Idle`. -/
def execEndSysexEmpty (s : State) : Host.Outcome State Fault Refusal :=
  whenSelected .endSysex_empty s (s.drop.goto .idle)

/-- `sysexWrap(sub, payload) = [0xF0, sub] ++ payload ++ [0xF7]` (R107); it inspects neither (R108). -/
def wrapSysex (sub : Byte) (payload : List Byte) : List Byte :=
  [Wire.startSysex, sub] ++ payload ++ [Wire.endSysex]

/-- Row `sysexWrap` (R107). -/
def execSysexWrap (sub : Byte) (payload : List Byte) (s : State) : Host.Outcome State Fault Refusal :=
  .next (s.respond { port := .sysexWrap, answer := .bytes (wrapSysex sub payload) })

end Sys2Proof.Machine
end

