-- ==== Sys2Proof/Machine/Encoder.lean ====
section
/-!
DEFINITION. The Protocol Encoder (44_encoder): the four response builders, pure and without validation
(R140, R141). The order of the mode checks is fixed and significant (R142).
-/

namespace Sys2Proof.Machine

/-- `firmataVersion()`: three plain bytes (R136). -/
def buildFirmataVersion : List Byte :=
  [Wire.reportVersion, Wire.protocolMajor, Wire.protocolMinor]

/-- `firmwareVersion()`: `sysexWrap(0x79, [0, 1] ++ encodeString("firmata-pi"))` (R137). Every code is below
16384, so `encodeString` is `splitPairs` here and cannot fail. -/
def buildFirmwareVersion : List Byte :=
  wrapSysex Wire.reportFirmware
    ([Wire.firmwareMajor, Wire.firmwareMinor] ++ splitPairs Wire.firmwareName)

/-- A mode pair where the resolution is present (R138). -/
def modePair (mode : Byte) : Option Byte → List Byte
  | some r => [mode, r]
  | none => []

/-- One pin's part of a capability report: digital (input before output), analog, pwm, servo, i2c, then
the terminator (R138, R142). -/
def pinReport (p : PinCapability) : List Byte :=
  (if p.digital then [Wire.pinInput, 1, Wire.pinOutput, 1] else [])
    ++ modePair Wire.pinAnalog p.analog
    ++ modePair Wire.pinPwm p.pwm
    ++ modePair Wire.pinServo p.servo
    ++ (if p.i2c then [Wire.pinI2C, 1] else [])
    ++ [Wire.terminator]

/-- `capabilityResponse(pins)`: the pins in list order (R138). -/
def buildCapabilityResponse (pins : List PinCapability) : List Byte :=
  wrapSysex Wire.capabilityResponse (pins.flatMap pinReport)

/-- One pin's byte of an analog-mapping report: the index where both `analog` and `analogMap` are present,
else 127 (R139). -/
def pinMapping (p : PinCapability) : Byte :=
  match p.analog, p.analogMap with
  | some _, some k => k
  | _, _ => Wire.terminator

/-- `analogMappingResponse(pins)`: one byte a pin (R139). -/
def buildAnalogMappingResponse (pins : List PinCapability) : List Byte :=
  wrapSysex Wire.analogMappingResponse (pins.map pinMapping)

/-- Row `firmataVersion` (R136). -/
def execFirmataVersion (s : State) : Host.Outcome State Fault Refusal :=
  .next (s.respond { port := .firmataVersion, answer := .bytes buildFirmataVersion })

/-- Row `firmwareVersion` (R137). -/
def execFirmwareVersion (s : State) : Host.Outcome State Fault Refusal :=
  .next (s.respond { port := .firmwareVersion, answer := .bytes buildFirmwareVersion })

/-- Row `capabilityResponse_build` (R138). -/
def execCapabilityResponseBuild (pins : List PinCapability) (s : State) :
    Host.Outcome State Fault Refusal :=
  .next (s.respond { port := .capabilityResponse, answer := .bytes (buildCapabilityResponse pins) })

/-- Row `analogMappingResponse_build` (R139). -/
def execAnalogMappingResponseBuild (pins : List PinCapability) (s : State) :
    Host.Outcome State Fault Refusal :=
  .next (s.respond { port := .analogMappingResponse, answer := .bytes (buildAnalogMappingResponse pins) })

end Sys2Proof.Machine
end

