-- ==== Sys2Proof/Machine/Tokenizer.lean ====
section
/-!
DEFINITION. The tokenizer in `Idle` and on the channel track (41_tokenizer R81 to R92). A meaning is the
tokenizer part of the step; the attached decoder then maps an emitted frame in the same step (R80).
-/

namespace Sys2Proof.Machine

/-! ### Channel commands in `Idle` -/

/-- Row `digitalMessage` (R81). -/
def execDigitalMessage (ch : U4) (s : State) : Host.Outcome State Fault Refusal :=
  whenSelected (.digitalMessage ch) s (s.beginChannel Wire.digitalMessage ch)

/-- Row `reportAnalog` (R82). -/
def execReportAnalog (ch : U4) (s : State) : Host.Outcome State Fault Refusal :=
  whenSelected (.reportAnalog ch) s (s.beginChannel Wire.reportAnalog ch)

/-- Row `reportDigital` (R83). -/
def execReportDigital (ch : U4) (s : State) : Host.Outcome State Fault Refusal :=
  whenSelected (.reportDigital ch) s (s.beginChannel Wire.reportDigital ch)

/-- Row `analogMessage` (R84). -/
def execAnalogMessage (ch : U4) (s : State) : Host.Outcome State Fault Refusal :=
  whenSelected (.analogMessage ch) s (s.beginChannel Wire.analogMessage ch)

/-! ### Fixed commands in `Idle` -/

/-- Row `setPinMode` (R85); a fixed command has no channel, so `chan <- 0` (decision D4, log 7). -/
def execSetPinMode (s : State) : Host.Outcome State Fault Refusal :=
  whenSelected .setPinMode s (s.beginChannel Wire.setPinMode 0)

/-- Row `reportVersion` (R86): complete at once, state unchanged. -/
def execReportVersion (s : State) : Host.Outcome State Fault Refusal :=
  whenSelected .reportVersion s (s.emitFrame (.channel Wire.reportVersion 0 []))

/-- Row `systemReset` (R87): complete at once, and the block is not reset (decision D16). -/
def execSystemReset (s : State) : Host.Outcome State Fault Refusal :=
  whenSelected .systemReset s (s.emitFrame (.channel Wire.systemReset 0 []))

/-- Row `endSysex_stray` (R88): dropped. -/
def execEndSysexStray (s : State) : Host.Outcome State Fault Refusal :=
  whenSelected .endSysex_stray s s.drop

/-! ### Unknown bytes in `Idle`: dropped silently (R89) -/

/-- Row `unknown_00_7F` (R89). -/
def execUnknown00To7F (x : BitVec 7) (s : State) : Host.Outcome State Fault Refusal :=
  whenSelected (.unknown_00_7F x) s s.drop

/-- Row `unknown_80_8F` (R89). -/
def execUnknown80To8F (x : BitVec 4) (s : State) : Host.Outcome State Fault Refusal :=
  whenSelected (.unknown_80_8F x) s s.drop

/-- Row `unknown_A0_BF` (R89). -/
def execUnknownA0ToBF (x : BitVec 5) (s : State) : Host.Outcome State Fault Refusal :=
  whenSelected (.unknown_A0_BF x) s s.drop

/-- Row `unknown_F1` (R89). -/
def execUnknownF1 (s : State) : Host.Outcome State Fault Refusal := whenSelected .unknown_F1 s s.drop

/-- Row `unknown_F2` (R89). -/
def execUnknownF2 (s : State) : Host.Outcome State Fault Refusal := whenSelected .unknown_F2 s s.drop

/-- Row `unknown_F3` (R89). -/
def execUnknownF3 (s : State) : Host.Outcome State Fault Refusal := whenSelected .unknown_F3 s s.drop

/-- Row `unknown_F5` (R89). -/
def execUnknownF5 (s : State) : Host.Outcome State Fault Refusal := whenSelected .unknown_F5 s s.drop

/-- Row `unknown_F6` (R89). -/
def execUnknownF6 (s : State) : Host.Outcome State Fault Refusal := whenSelected .unknown_F6 s s.drop

/-- Row `unknown_F8` (R89). -/
def execUnknownF8 (s : State) : Host.Outcome State Fault Refusal := whenSelected .unknown_F8 s s.drop

/-- Row `unknown_FA` (R89). -/
def execUnknownFA (s : State) : Host.Outcome State Fault Refusal := whenSelected .unknown_FA s s.drop

/-- Row `unknown_FB` (R89). -/
def execUnknownFB (s : State) : Host.Outcome State Fault Refusal := whenSelected .unknown_FB s s.drop

/-- Row `unknown_FC` (R89). -/
def execUnknownFC (s : State) : Host.Outcome State Fault Refusal := whenSelected .unknown_FC s s.drop

/-- Row `unknown_FD` (R89). -/
def execUnknownFD (s : State) : Host.Outcome State Fault Refusal := whenSelected .unknown_FD s s.drop

/-- Row `unknown_FE` (R89). -/
def execUnknownFE (s : State) : Host.Outcome State Fault Refusal := whenSelected .unknown_FE s s.drop

/-! ### The channel track -/

/-- Row `channelData_first` (R90): the byte is stored whatever its value (decision D3). -/
def execChannelDataFirst (d : Byte) (s : State) : Host.Outcome State Fault Refusal :=
  whenSelected (.channelData_first d) s (s.append d)

/-- Completion of a channel-track frame, with both data bytes in `col` (R91); `cmd` and `chan` keep their
values. -/
def State.completeChannel (s : State) : State :=
  (s.emitFrame (.channel s.cmd s.chan s.col)).backToIdle

/-- Row `channelData_second` (R90, then R91 in the same step). -/
def execChannelDataSecond (d : Byte) (s : State) : Host.Outcome State Fault Refusal :=
  whenSelected (.channelData_second d) s (s.append d).completeChannel

end Sys2Proof.Machine
end

