-- ==== Sys2Proof/Machine/Dispatch.lean ====
section
/-!
DEFINITION. One arm per constructor of `Instr`, each one direct call of that instruction's meaning.
-/

namespace Sys2Proof.Machine

/-- The meaning of an instruction. -/
def exec (i : Instr) (s : State) : Host.Outcome State Fault Refusal :=
  match i with
  -- space `idle`
  | .digitalMessage ch => Sys2Proof.Machine.execDigitalMessage ch s
  | .reportAnalog ch => Sys2Proof.Machine.execReportAnalog ch s
  | .reportDigital ch => Sys2Proof.Machine.execReportDigital ch s
  | .analogMessage ch => Sys2Proof.Machine.execAnalogMessage ch s
  | .startSysex => Sys2Proof.Machine.execStartSysex s
  | .setPinMode => Sys2Proof.Machine.execSetPinMode s
  | .endSysex_stray => Sys2Proof.Machine.execEndSysexStray s
  | .reportVersion => Sys2Proof.Machine.execReportVersion s
  | .systemReset => Sys2Proof.Machine.execSystemReset s
  | .unknown_00_7F x => Sys2Proof.Machine.execUnknown00To7F x s
  | .unknown_80_8F x => Sys2Proof.Machine.execUnknown80To8F x s
  | .unknown_A0_BF x => Sys2Proof.Machine.execUnknownA0ToBF x s
  | .unknown_F1 => Sys2Proof.Machine.execUnknownF1 s
  | .unknown_F2 => Sys2Proof.Machine.execUnknownF2 s
  | .unknown_F3 => Sys2Proof.Machine.execUnknownF3 s
  | .unknown_F5 => Sys2Proof.Machine.execUnknownF5 s
  | .unknown_F6 => Sys2Proof.Machine.execUnknownF6 s
  | .unknown_F8 => Sys2Proof.Machine.execUnknownF8 s
  | .unknown_FA => Sys2Proof.Machine.execUnknownFA s
  | .unknown_FB => Sys2Proof.Machine.execUnknownFB s
  | .unknown_FC => Sys2Proof.Machine.execUnknownFC s
  | .unknown_FD => Sys2Proof.Machine.execUnknownFD s
  | .unknown_FE => Sys2Proof.Machine.execUnknownFE s
  -- space `channel_data`
  | .channelData_first d => Sys2Proof.Machine.execChannelDataFirst d s
  | .channelData_second d => Sys2Proof.Machine.execChannelDataSecond d s
  -- space `sysex`
  | .endSysex_complete => Sys2Proof.Machine.execEndSysexComplete s
  | .endSysex_empty => Sys2Proof.Machine.execEndSysexEmpty s
  | .sysexData d => Sys2Proof.Machine.execSysexData d s
  | .sysexData_oversized d => Sys2Proof.Machine.execSysexDataOversized d s
  -- space `subcommand`
  | .analogMappingQuery => Sys2Proof.Machine.execAnalogMappingQuery s
  | .analogMappingResponse => Sys2Proof.Machine.execAnalogMappingResponse s
  | .capabilityQuery => Sys2Proof.Machine.execCapabilityQuery s
  | .capabilityResponse => Sys2Proof.Machine.execCapabilityResponse s
  | .stringData => Sys2Proof.Machine.execStringData s
  | .reportFirmware => Sys2Proof.Machine.execReportFirmware s
  | .unknownSubcommand x => Sys2Proof.Machine.execUnknownSubcommand x s
  -- space `port`
  | .decodeValue bytes => Sys2Proof.Machine.execDecodeValue bytes s
  | .decodeString bytes => Sys2Proof.Machine.execDecodeString bytes s
  | .encodeString text => Sys2Proof.Machine.execEncodeString text s
  | .encodeValue values => Sys2Proof.Machine.execEncodeValue values s
  | .firmataVersion => Sys2Proof.Machine.execFirmataVersion s
  | .firmwareVersion => Sys2Proof.Machine.execFirmwareVersion s
  | .capabilityResponse_build pins => Sys2Proof.Machine.execCapabilityResponseBuild pins s
  | .analogMappingResponse_build pins => Sys2Proof.Machine.execAnalogMappingResponseBuild pins s
  | .sysexWrap sub payload => Sys2Proof.Machine.execSysexWrap sub payload s

end Sys2Proof.Machine
end

