-- ==== Sys2Proof/Machine/Reset.lean ====
section
/-!
DEFINITION. The reset operation (70_reset_and_hazards R175 to R178): a transaction on `rst`, taken between
two steps like a byte. It has no row in the opcode table.
-/

namespace Sys2Proof.Machine

/-- The state of a newly constructed Tokenizer (R27, R175), no output. `SYSEX_MAX` is not changed (R178), and
what the host offered behind the reset is still offered (R177). -/
def State.applyReset (s : State) : State :=
  { State.reset with pending := s.pending, cfg := s.cfg }

end Sys2Proof.Machine
end

