-- ==== Sys2Proof/Machine/Attached.lean ====
section
/-!
DEFINITION. What a step does around `exec` (41_tokenizer R80): it decodes the byte in the space the state
gives, runs the instruction, and lets the attached decoder map an emitted frame in the same step (43_decoder
R115).
-/

namespace Sys2Proof.Machine

/-- The attached decoder, after the tokenizer part of the step: nothing without a frame; the handler of a
channel-kind frame; for a sysex-kind frame the sub-command is decoded (30_encoding R56) and that row's
meaning runs. -/
def attachedDecoder (s : State) : Host.Outcome State Fault Refusal :=
  match s.out.frame with
  | none => .next s
  | some (.channel command chan data) => .next (react s (channelReaction command chan data))
  | some (.sysex sub _) =>
    match decode .subcommand (.byte sub) with
    | .ok i => exec i s
    | .error r => .refused (.undecodable r)

/-- The step of an accepted byte: tokenizer part, then attached decoder (R80). -/
def runByte (b : Byte) (s : State) : Host.Outcome State Fault Refusal :=
  match decode s.space (.byte b) with
  | .ok i => andThen (exec i s) attachedDecoder
  | .error r => .refused (.undecodable r)

/-- A request on a port of the pure units (R61, R73). -/
def runRequest (r : Request) (s : State) : Host.Outcome State Fault Refusal :=
  match decode .port (.request r) with
  | .ok i => exec i s
  | .error e => .refused (.undecodable e)

/-- `s` with a word of the opcode table placed so that the next step runs it (log 6): a byte offered in
`Idle` with an empty buffer; a request offered; a sub-command already collected in an open sysex frame with
no payload, its end marker offered, so that the step that completes the frame runs the sub-command's row. -/
def State.place (s : State) : Space × Code → State
  | (.subcommand, .byte sub) =>
    { s with st := .awaitingSysex, col := [sub], pending := .rx Wire.endSysex :: s.pending }
  | (_, .byte b) => { s with st := .idle, col := [], pending := .rx b :: s.pending }
  | (_, .request r) => { s with pending := .request r :: s.pending }

end Sys2Proof.Machine
end

