-- ==== Sys2Proof/Machine/Step.lean ====
section
/-!
DEFINITION. One step of the machine. The block fetches nothing (10_state R24): a step takes the first input
the host has offered. With nothing offered the block is idle and keeps its whole state (60_exceptions R164; that
this is a step is the model's choice, log 13).
-/

namespace Sys2Proof.Machine

/-- One step: a byte on `rx` (R16, R80), a reset between two steps (R17, R177), a request on a pure port
(R21, R22), or, with nothing offered, no change and no transaction (DEDUCED, log 13). -/
def step (s : State) : Host.Outcome State Fault Refusal :=
  match s.pending with
  | [] => .next (s.take [])
  | .rst :: rest => .next (s.take rest).applyReset
  | .rx b :: rest => runByte b (s.accept rest)
  | .request r :: rest => runRequest r (s.take rest)

/-- `s` with the instruction of an opcode-table word placed where the next step takes it, in the space
`Sys2Proof.tableCode` reads the word in (log 6); `s` itself where the word is no instruction. -/
def State.withFetchWord (s : State) (nbits w : Nat) : State :=
  match tableCode nbits w with
  | .ok place => s.place place
  | .error _ => s

end Sys2Proof.Machine
end

