-- ==== Sys2Proof/Machine/Stream.lean ====
section
/-!
DEFINITION. Several steps: the outputs of a run, step by step, and `write(bytes)` (41_tokenizer R93).
-/

namespace Sys2Proof.Machine

/-- `n` steps from `s`: the transactions of each, in order, and the state at the end. Every step answers a
next state (R95); were one to stop, the run would end before it. -/
def run : Nat → State → List Ports × State
  | 0, s => ([], s)
  | n + 1, s =>
    match step s with
    | .next t => let (outs, u) := run n t; (t.out :: outs, u)
    | .fault _ => ([], s)
    | .refused _ => ([], s)

/-- `write(bytes)`: the chunk is offered and its bytes are taken one step each, in order; the outputs are the
outputs of those steps (R93). A `write` is made when nothing offered before it is still pending (R41 item 2). -/
def write (bytes : List Byte) (s : State) : List Ports × State :=
  run bytes.length (s.offer bytes)

/-- The frames of a run, in order (R41 item 3). -/
def framesOf (outs : List Ports) : List Frame := outs.filterMap (·.frame)

/-- The events of a run, in order (R41 item 3). -/
def eventsOf (outs : List Ports) : List Event := outs.filterMap (·.event)

/-- The errors of a run, in order (R41 item 3); the ghost record R161 allows a model to keep. -/
def errorsOf (outs : List Ports) : List Condition := outs.filterMap (·.err)

end Sys2Proof.Machine
end

