-- ==== Sys2Proof/Machine/StreamText.lean ====
section
/-!
DEFINITION. The spec's own notation for byte streams (30_encoding R59) and its macros (R60), after reading:
a line is a constructor with its operands as numbers, and stands for exactly the bytes R59 and R60 show. The
characters of the text and their parsing are left out (log 12).
-/

namespace Sys2Proof.Machine

/-- A line of the notation. The first eleven are R59's, the rest R60's macros. -/
inductive Line where
  | digitalMessage (ch : U4) (d0 d1 : Byte)
  | reportAnalog (ch : U4) (d0 d1 : Byte)
  | reportDigital (ch : U4) (d0 d1 : Byte)
  | analogMessage (ch : U4) (d0 d1 : Byte)
  | setPinMode (pin mode : Byte)
  | reportVersion
  | systemReset
  | startSysex
  | endSysex
  | byteList (bs : List Byte)
  | chunkBoundary
  | digitalValue (ch : U4) (v : U16)
  | analogValue (ch : U4) (v : U16)
  | sysex (sub : Byte) (payload : List Byte)
  | stringData (text : List U16)
  | reportFirmware
  | capabilityQuery
  | analogMappingQuery
  deriving DecidableEq, Repr

/-- The bytes of a line (R59, R60). A macro whose value or text is out of range has none: `encodeValue` and
`encodeString` fail. -/
def Line.bytes : Line → Except Condition (List Byte)
  | .digitalMessage ch d0 d1 => .ok [commandByte Wire.digitalMessage ch, d0, d1]
  | .reportAnalog ch d0 d1 => .ok [commandByte Wire.reportAnalog ch, d0, d1]
  | .reportDigital ch d0 d1 => .ok [commandByte Wire.reportDigital ch, d0, d1]
  | .analogMessage ch d0 d1 => .ok [commandByte Wire.analogMessage ch, d0, d1]
  | .setPinMode pin mode => .ok [Wire.setPinMode, pin, mode]
  | .reportVersion => .ok [Wire.reportVersion]
  | .systemReset => .ok [Wire.systemReset]
  | .startSysex => .ok [Wire.startSysex]
  | .endSysex => .ok [Wire.endSysex]
  | .byteList bs => .ok bs
  | .chunkBoundary => .ok []
  | .digitalValue ch v => (encodeValue [v]).map (commandByte Wire.digitalMessage ch :: ·)
  | .analogValue ch v => (encodeValue [v]).map (commandByte Wire.analogMessage ch :: ·)
  | .sysex sub payload => .ok (wrapSysex sub payload)
  | .stringData text => (encodeString text).map (wrapSysex Wire.stringData)
  | .reportFirmware => .ok (wrapSysex Wire.reportFirmware [])
  | .capabilityQuery => .ok (wrapSysex Wire.capabilityQuery [])
  | .analogMappingQuery => .ok (wrapSysex Wire.analogMappingQuery [])

/-- The chunks of a program: the lines' bytes in order, a new chunk at every boundary (R59). -/
def assemble : List Line → Except Condition (List (List Byte))
  | [] => .ok [[]]
  | .chunkBoundary :: rest => (assemble rest).map ([] :: ·)
  | l :: rest =>
    match l.bytes, assemble rest with
    | .ok bs, .ok (c :: cs) => .ok ((bs ++ c) :: cs)
    | .ok bs, .ok [] => .ok [bs]
    | .ok _, .error e => .error e
    | .error e, _ => .error e

end Sys2Proof.Machine
end

