-- ==== Sys2Proof/Safety.lean ====
section
/-!
DEFINITION. What counts as a safe run, in the terms claims use: the state invariant of 10_state R15, what a
step may put on the ports (43_decoder R129), and a safe step.
-/

namespace Sys2Proof.Machine

/-- The commands that can be in progress on the channel track (R15 (b)): the four bases and `0xF4`. -/
abbrev isChannelCommand (c : Byte) : Prop :=
  c = Wire.digitalMessage ∨ c = Wire.reportAnalog ∨ c = Wire.reportDigital ∨
    c = Wire.analogMessage ∨ c = Wire.setPinMode

/-- "State invariants, true after reset and after every step" (R15): (a) `Idle` means an empty buffer;
(b) on the channel track at most one byte is held and the command is one of five, `chan` 0 with `0xF4`;
(c) on the sysex track at most `SYSEX_MAX` bytes are held. -/
abbrev State.Inv (s : State) : Prop :=
  (s.st = .idle → s.col = []) ∧
  (s.st = .awaitingChannelData →
    s.col.length ≤ 1 ∧ isChannelCommand s.cmd ∧ (s.cmd = Wire.setPinMode → s.chan = 0)) ∧
  (s.st = .awaitingSysex → Memory.wf s.cfg.sysexMax s.col = true)

/-- What a step's inbound outputs may be (R129): nothing; a frame alone; a frame and an event; a frame and
an error; an error alone. -/
abbrev Ports.inboundLegal (p : Ports) : Prop :=
  p.resp = none ∧ (p.event ≠ none → p.frame ≠ none ∧ p.err = none)

/-- A safe step: it answers a next state (R95: never stuck, never faulting), the invariant of R15 holds
there, and `SYSEX_MAX` is what it was (R178). -/
def State.SafeStep (s : State) : Prop :=
  ∃ t, step s = .next t ∧ t.Inv ∧ t.cfg = s.cfg

end Sys2Proof.Machine
end

