-- ==== Sys2Proof/Certificates/Slice0/Obligations.lean ====
section
/-!
DEFINITION. The statements for the provers. Each docstring names the rules of spec/ it formalises; where a
clause is the spec's own decision or the model's choice, it says so and names it.
-/

open Sys2Proof Sys2Proof.Machine

/-! ### Encoding -/

/-- R52, R53, R56, R61, R62: in the space that selects it, a well-formed instruction's code decodes to the
instruction, with every operand at every value its encoding admits. Which row a space outside R15 selects is the
model's choice (log 5). -/
def Obligations.DecodeUndoesEncode : Prop :=
  ∀ (sp : Space) (i : Instr), i.wf = true → sp.selects i = true → decode sp (encode i) = .ok i

/-- R53, R56, R62: a code has one meaning in a space; encoding what it decodes to gives it back, the row is
one the space selects, and the instruction is well-formed, the byte `0xF7` in the sub-command place (R56: no
sub-command) apart. Which row a space outside R15 selects is the model's choice (log 5). -/
def Obligations.EncodeUndoesDecode : Prop :=
  ∀ (sp : Space) (c : Code) (i : Instr), decode sp c = .ok i →
    encode i = c ∧ sp.selects i = true ∧
      ((sp = .subcommand → c ≠ .byte 0xF7) → i.wf = true)

/-- R45, R47, R52, R53, R62: words written out from the spec's encodings decode to what they stand for, at
least one of every family of the opcode table. -/
def Obligations.WrittenOutWordsDecode : Prop :=
  decode .idle (.byte 0b10010101) = .ok (.digitalMessage 5) ∧
  decode .idle (.byte 0b11000011) = .ok (.reportAnalog 3) ∧
  decode .idle (.byte 0b11010111) = .ok (.reportDigital 7) ∧
  decode .idle (.byte 0b11101010) = .ok (.analogMessage 10) ∧
  decode .idle (.byte 0b11110000) = .ok .startSysex ∧
  decode .idle (.byte 0b11110100) = .ok .setPinMode ∧
  decode .idle (.byte 0b11110111) = .ok .endSysex_stray ∧
  decode .idle (.byte 0b11111001) = .ok .reportVersion ∧
  decode .idle (.byte 0b11111111) = .ok .systemReset ∧
  decode .idle (.byte 0b01000010) = .ok (.unknown_00_7F 0b1000010) ∧
  decode .idle (.byte 0b10001111) = .ok (.unknown_80_8F 0b1111) ∧
  decode .idle (.byte 0b10111111) = .ok (.unknown_A0_BF 0b11111) ∧
  decode .idle (.byte 0b11111110) = .ok .unknown_FE ∧
  decode (.channelData 0) (.byte 0b11110111) = .ok (.channelData_first 0xF7) ∧
  decode (.channelData 1) (.byte 0b11110000) = .ok (.channelData_second 0xF0) ∧
  decode (.sysex 0 .unbounded) (.byte 0b11110111) = .ok .endSysex_empty ∧
  decode (.sysex 1 .unbounded) (.byte 0b11110111) = .ok .endSysex_complete ∧
  decode (.sysex 3 (.atMost 4)) (.byte 0b11110000) = .ok (.sysexData 0xF0) ∧
  decode (.sysex 4 (.atMost 4)) (.byte 0b00000100) = .ok (.sysexData_oversized 4) ∧
  decode .subcommand (.byte 0b01110001) = .ok .stringData ∧
  decode .subcommand (.byte 0b01101100) = .ok .capabilityResponse ∧
  decode .subcommand (.byte 0b10010000) = .ok (.unknownSubcommand 0x90) ∧
  decode .port (.request (.decodeValue (.two 5 1))) = .ok (.decodeValue (.two 5 1)) ∧
  decode .port (.request .firmataVersion) = .ok .firmataVersion

/-- R53, the byte map of `Idle`: each byte value is in the class the rule's table gives, for all 256
values. -/
def Obligations.IdleByteMapIsTheTable : Prop :=
  ∀ b : Byte,
    (decodeIdle b = .startSysex ↔ b = 0xF0) ∧
    (decodeIdle b = .setPinMode ↔ b = 0xF4) ∧
    (decodeIdle b = .endSysex_stray ↔ b = 0xF7) ∧
    (decodeIdle b = .reportVersion ↔ b = 0xF9) ∧
    (decodeIdle b = .systemReset ↔ b = 0xFF) ∧
    (decodeIdle b = .digitalMessage ((b &&& 0x0F).setWidth 4) ↔ 0x90 ≤ b ∧ b ≤ 0x9F) ∧
    (decodeIdle b = .reportAnalog ((b &&& 0x0F).setWidth 4) ↔ 0xC0 ≤ b ∧ b ≤ 0xCF) ∧
    (decodeIdle b = .reportDigital ((b &&& 0x0F).setWidth 4) ↔ 0xD0 ≤ b ∧ b ≤ 0xDF) ∧
    (decodeIdle b = .analogMessage ((b &&& 0x0F).setWidth 4) ↔ 0xE0 ≤ b ∧ b ≤ 0xEF) ∧
    (decodeIdle b = .unknown_00_7F (b.setWidth 7) ↔ b ≤ 0x7F) ∧
    (decodeIdle b = .unknown_80_8F (b.setWidth 4) ↔ 0x80 ≤ b ∧ b ≤ 0x8F) ∧
    (decodeIdle b = .unknown_A0_BF (b.setWidth 5) ↔ 0xA0 ≤ b ∧ b ≤ 0xBF) ∧
    (decodeIdle b = .unknown_F1 ↔ b = 0xF1) ∧ (decodeIdle b = .unknown_F2 ↔ b = 0xF2) ∧
    (decodeIdle b = .unknown_F3 ↔ b = 0xF3) ∧ (decodeIdle b = .unknown_F5 ↔ b = 0xF5) ∧
    (decodeIdle b = .unknown_F6 ↔ b = 0xF6) ∧ (decodeIdle b = .unknown_F8 ↔ b = 0xF8) ∧
    (decodeIdle b = .unknown_FA ↔ b = 0xFA) ∧ (decodeIdle b = .unknown_FB ↔ b = 0xFB) ∧
    (decodeIdle b = .unknown_FC ↔ b = 0xFC) ∧ (decodeIdle b = .unknown_FD ↔ b = 0xFD) ∧
    (decodeIdle b = .unknown_FE ↔ b = 0xFE)

/-- R57 and R95: there are no illegal encodings; a byte decodes in every state, and a request on its port.
What the decoder rejects, by name, is a byte where a request is read and a request where a byte is read
(the model's own cases, log 6); what a byte decodes to in a state outside R15 is the model's choice (log 5). -/
def Obligations.EveryByteDecodesInEveryState : Prop :=
  (∀ (s : State) (b : Byte), ∃ i, decode s.space (.byte b) = .ok i ∧ s.space.selects i = true) ∧
  (∀ r : Request, ∃ i, decode .port (.request r) = .ok i) ∧
  (∀ b : Byte, decode .port (.byte b) = .error .byteForRequest) ∧
  (∀ (s : State) (r : Request), decode s.space (.request r) = .error .requestForByte)

/-- R62: where the table's `space` and `condition` of a row do not hold, the row's meaning stops by the name
`notSelected` (the model's choice, log 4, since the spec gives the row no effect there): a byte row where the
state's space does not select it, a sub-command row where the step has emitted no sysex frame of its
sub-command. -/
def Obligations.RowsStopWhereTheyAreNotSelected : Prop :=
  (∀ (i : Instr) (s : State), Space.port.selects i = false → Space.subcommand.selects i = false →
    s.space.selects i = false → exec i s = .refused .notSelected) ∧
  (∀ (i : Instr) (s : State), Space.subcommand.selects i = true →
    (∀ sub data, s.out.frame = some (.sysex sub data) → decodeSubcommand sub ≠ i) →
      exec i s = .refused .notSelected)

/-! ### What a step is -/

/-- R80, R115: the step of a byte is `exec` of the instruction the byte decodes to in the state's space, run
with the byte taken from the offered inputs, the ports quiet and the ghost counter counted, and then the
attached decoder in the same step. -/
def Obligations.StepRunsTheDecodedByte : Prop :=
  ∀ (s : State) (b : Byte) (rest : List Input) (i : Instr),
    s.pending = .rx b :: rest → decode s.space (.byte b) = .ok i →
      step s = andThen
        (exec i { s with pending := rest, out := Ports.quiet, pos := s.pos + 1 }) attachedDecoder

/-- R61, R73: the step of a request is `exec` of the operation it names, with the request taken and the ports
quiet. -/
def Obligations.StepRunsTheRequestedOperation : Prop :=
  ∀ (s : State) (r : Request) (rest : List Input) (i : Instr),
    s.pending = .request r :: rest → decode .port (.request r) = .ok i →
      step s = exec i { s with pending := rest, out := Ports.quiet }

/-- R80, R115, R131: what the attached decoder adds to a step: nothing without a frame, and for a sysex frame
`exec` of the row its sub-command decodes to. -/
def Obligations.AttachedDecoderRunsTheSubcommandRow : Prop :=
  (∀ s : State, s.out.frame = none → attachedDecoder s = .next s) ∧
  (∀ (s : State) (sub : Byte) (data : List Byte) (i : Instr),
    s.out.frame = some (.sysex sub data) → decode .subcommand (.byte sub) = .ok i →
      attachedDecoder s = exec i s)

/-- With nothing offered the step answers the state as it is, with no transaction on any port. That there is a
step then, and that it answers next, is the model's choice (log 13, DEDUCED: the spec calls no such moment a
step); R164 says only that the block is idle then and keeps its whole state. -/
def Obligations.NothingOfferedChangesNothing : Prop :=
  ∀ s : State, s.pending = [] → step s = .next { s with out := Ports.quiet }

/-- R27, R175, R177, R178: a transaction on `rst` gives the reset values from any state, outputs nothing,
leaves `SYSEX_MAX` as it is, and what is offered behind it is processed after it. The values of `cmd` and
`chan` are the spec's decision D12 (log 7); the ghost counter's is the model's (log 9). -/
def Obligations.ResetInputGivesTheResetState : Prop :=
  ∀ (s : State) (rest : List Input), s.pending = .rst :: rest →
    step s = .next { st := .idle, cmd := 0x00, chan := 0, col := [],
                     out := { frame := none, event := none, err := none, resp := none },
                     pos := 0, pending := rest, cfg := s.cfg }

/-- R27: the state after reset. `cmd` and `chan` are the spec's decision D12 (log 7); no input offered and
an unbounded `SYSEX_MAX` are the model's choices (log 1, log 3). -/
def Obligations.ResetStateValues : Prop :=
  State.reset.st = .idle ∧ State.reset.col = [] ∧ State.reset.cmd = 0x00 ∧ State.reset.chan = 0 ∧
  State.reset.out = { frame := none, event := none, err := none, resp := none } ∧
  State.reset.pos = 0 ∧ State.reset.pending = [] ∧ State.reset.cfg = { sysexMax := .unbounded }

/-! ### The whole machine -/

/-- R23, R95: in every state, reachable or not, the step answers a next state: the block is always ready,
never stuck and never faulting. That it does so with nothing offered too is the model's choice (log 13), and
which row runs in a state outside R15 another (log 5). -/
def Obligations.StepAlwaysAnswersNext : Prop :=
  ∀ s : State, ∃ t, step s = .next t

/-- R15: the state invariants hold after every step from every state in which they hold. -/
def Obligations.EveryStepKeepsTheInvariant : Prop :=
  ∀ s t : State, s.Inv → step s = .next t → t.Inv

/-- R15: the state invariants hold after reset, and `SYSEX_MAX` is then a value R5 admits. -/
def Obligations.ResetMeetsTheInvariant : Prop :=
  State.reset.Inv ∧ State.reset.cfg.WF

/-- R151, R155, R158, R159, R129: what a byte's step may put on the ports: nothing; a frame alone; a frame
and an event; a `stringData` frame of odd payload and `InvalidStringLength`; `OversizedFrame` alone. -/
def Obligations.InboundOutputsAreOneOfFive : Prop :=
  ∀ (s t : State) (b : Byte) (rest : List Input), s.pending = .rx b :: rest → step s = .next t →
    t.out.resp = none ∧
    (t.out.event ≠ none → t.out.frame ≠ none ∧ t.out.err = none) ∧
    (t.out.err ≠ none →
      (t.out.frame = none ∧ t.out.err = some .oversizedFrame) ∨
      (∃ data, t.out.frame = some (.sysex 0x71 data) ∧ data.length % 2 = 1 ∧
        t.out.err = some .invalidStringLength))

/-- R96, R38: a frame is emitted only by rules R86, R87, R91 and R102; the step that emits it ends in `Idle`,
and, in a state that meets R15, with an empty buffer. -/
def Obligations.FramesComeFromFourRulesAndEndInIdle : Prop :=
  ∀ (s t : State) (b : Byte) (rest : List Input), s.pending = .rx b :: rest → step s = .next t →
    t.out.frame ≠ none →
      ((s.st = .idle ∧ (b = 0xF9 ∨ b = 0xFF)) ∨
       (s.st = .awaitingChannelData ∧ s.col.length = 1) ∨
       (s.st = .awaitingSysex ∧ b = 0xF7 ∧ s.col ≠ [])) ∧
      t.st = .idle ∧ (s.Inv → t.col = [])

/-- R73, with R41 item 4: each request gives exactly one response, depending on the request alone (in any two
states the same transactions, and no frame and no event among them), and a pure operation neither observes nor
disturbs the tokenizer's state: nothing else changes. -/
def Obligations.PureOperationsNeitherObserveNorDisturb : Prop :=
  ∀ (r : Request) (s t : State) (rs rt : List Input),
    s.pending = .request r :: rs → t.pending = .request r :: rt →
      ∃ p : Ports, p.resp ≠ none ∧ p.frame = none ∧ p.event = none ∧
        step s = .next { s with pending := rs, out := p } ∧
        step t = .next { t with pending := rt, out := p }

/-- R25, R161: outputs are single transactions, not levels: a step does not depend on what an earlier one put
on the ports, an error included. -/
def Obligations.EarlierOutputsAreNotRemembered : Prop :=
  ∀ (s : State) (p : Ports), step { s with out := p } = step s

/-- R12, R26, R27: outside the channel track `cmd` and `chan` are never read before they are written: the
step of a byte puts the same on the ports, goes to the same `st` and leaves the same `col` whatever they
hold, and where it goes to the channel track they end up the same. -/
def Obligations.CommandRegistersAreUnreadOutsideTheChannelTrack : Prop :=
  ∀ (s : State) (c : Byte) (ch : U4) (b : Byte) (rest : List Input),
    s.pending = .rx b :: rest → s.st ≠ .awaitingChannelData →
      ∃ t u, step s = .next t ∧ step { s with cmd := c, chan := ch } = .next u ∧
        u.out = t.out ∧ u.st = t.st ∧ u.col = t.col ∧
        (t.st = .awaitingChannelData → u.cmd = t.cmd ∧ u.chan = t.chan)

/-- R5, R178, R93, R24: a step takes the first input offered and leaves the rest offered, in order; the model's
ghost counter (log 9) counts a byte and no request; no step, a reset included, changes `SYSEX_MAX`. -/
def Obligations.EachStepTakesOneInputAndKeepsTheParameter : Prop :=
  (∀ (s t : State) (b : Byte) (rest : List Input), s.pending = .rx b :: rest → step s = .next t →
    t.pos = s.pos + 1 ∧ t.pending = rest) ∧
  (∀ (s t : State) (r : Request) (rest : List Input), s.pending = .request r :: rest →
    step s = .next t → t.pos = s.pos ∧ t.pending = rest) ∧
  (∀ s t : State, step s = .next t → t.cfg = s.cfg)

/-- R93: a `write` of a chunk is the steps of its bytes in order, its outputs are the outputs of those steps
in that order, and a `write` of the empty chunk does nothing. -/
def Obligations.WriteIsTheStepsOfItsBytes : Prop :=
  (∀ s : State, write [] s = ([], s)) ∧
  (∀ (b : Byte) (bs : List Byte) (s t : State), s.pending = [] →
    step { s with pending := [.rx b] } = .next t →
      write (b :: bs) s = (t.out :: (write bs t).1, (write bs t).2))

/-- R94: chunk boundaries carry no meaning. -/
def Obligations.ChunkBoundariesCarryNoMeaning : Prop :=
  ∀ (a b : List Byte) (s : State), s.pending = [] →
    write (a ++ b) s = ((write a s).1 ++ (write b (write a s).2).1, (write b (write a s).2).2)

/-! ### Bytes accepted in `Idle` -/

/-- R81 to R84: a channel command byte in `Idle` writes `cmd` and `chan`, empties `col` and goes to
`AwaitingChannelData`, for all 16 channels, and outputs nothing; nothing else changes. -/
def Obligations.ChannelCommandsBeginCollection : Prop :=
  ∀ (s : State) (ch : U4), s.st = .idle →
    (decode s.space (.byte (0x90 ||| ch.setWidth 8)) = .ok (.digitalMessage ch) ∧
      exec (.digitalMessage ch) s =
        .next { s with cmd := 0x90, chan := ch, col := [], st := .awaitingChannelData }) ∧
    (decode s.space (.byte (0xC0 ||| ch.setWidth 8)) = .ok (.reportAnalog ch) ∧
      exec (.reportAnalog ch) s =
        .next { s with cmd := 0xC0, chan := ch, col := [], st := .awaitingChannelData }) ∧
    (decode s.space (.byte (0xD0 ||| ch.setWidth 8)) = .ok (.reportDigital ch) ∧
      exec (.reportDigital ch) s =
        .next { s with cmd := 0xD0, chan := ch, col := [], st := .awaitingChannelData }) ∧
    (decode s.space (.byte (0xE0 ||| ch.setWidth 8)) = .ok (.analogMessage ch) ∧
      exec (.analogMessage ch) s =
        .next { s with cmd := 0xE0, chan := ch, col := [], st := .awaitingChannelData })

/-- R85: the `setPinMode` byte in `Idle`. `chan <- 0` is the spec's decision D4 (log 7). -/
def Obligations.SetPinModeBeginsCollection : Prop :=
  ∀ s : State, s.st = .idle →
    decode s.space (.byte 0xF4) = .ok .setPinMode ∧
    exec .setPinMode s =
      .next { s with cmd := 0xF4, chan := 0, col := [], st := .awaitingChannelData }

/-- R86, R87: `reportVersion` and `systemReset` in `Idle` emit their frame at once and change no state; the
frame's kind and channel 0 are the spec's decision D4, and that nothing is reset its decision D16 (log 7). -/
def Obligations.ImmediateCommandsEmitAtOnce : Prop :=
  ∀ s : State, s.st = .idle →
    exec .reportVersion s =
      .next { s with out := { s.out with frame := some (.channel 0xF9 0 []) } } ∧
    exec .systemReset s =
      .next { s with out := { s.out with frame := some (.channel 0xFF 0 []) } }

/-- R116, R120 through a whole step: `0xF9` and `0xFF` accepted in `Idle` give the events `reportVersion` and
`systemReset` and leave the block's state as it was. -/
def Obligations.ImmediateCommandsAreReportedAsEvents : Prop :=
  ∀ (s : State) (rest : List Input), s.st = .idle →
    (s.pending = .rx 0xF9 :: rest →
      step s = .next { s with
        pending := rest, pos := s.pos + 1,
        out := { frame := some (.channel 0xF9 0 []), event := some .reportVersion,
                 err := none, resp := none } }) ∧
    (s.pending = .rx 0xFF :: rest →
      step s = .next { s with
        pending := rest, pos := s.pos + 1,
        out := { frame := some (.channel 0xFF 0 []), event := some .systemReset,
                 err := none, resp := none } })

/-- R89: every unknown byte in `Idle` is dropped: no output and no state change, as the row's meaning and as a
whole step of any byte that is neither one of the five fixed values nor in one of the four channel bases. -/
def Obligations.UnknownBytesAreDropped : Prop :=
  ∀ (s : State) (x7 : BitVec 7) (x4 : BitVec 4) (x5 : BitVec 5), s.st = .idle →
    exec (.unknown_00_7F x7) s = .next s ∧ exec (.unknown_80_8F x4) s = .next s ∧
    exec (.unknown_A0_BF x5) s = .next s ∧
    exec .unknown_F1 s = .next s ∧ exec .unknown_F2 s = .next s ∧ exec .unknown_F3 s = .next s ∧
    exec .unknown_F5 s = .next s ∧ exec .unknown_F6 s = .next s ∧ exec .unknown_F8 s = .next s ∧
    exec .unknown_FA s = .next s ∧ exec .unknown_FB s = .next s ∧ exec .unknown_FC s = .next s ∧
    exec .unknown_FD s = .next s ∧ exec .unknown_FE s = .next s ∧
    (∀ (b : Byte) (rest : List Input), s.pending = .rx b :: rest →
      b ∉ [0xF0, 0xF4, 0xF7, 0xF9, 0xFF] → b &&& 0xF0 ∉ [0x90, 0xC0, 0xD0, 0xE0] →
        step s = .next { s with pending := rest, out := Ports.quiet, pos := s.pos + 1 })

/-- R88, the spec's decision D5 (log 7): a stray end marker in `Idle` is dropped. -/
def Obligations.StrayEndMarkerIsDropped : Prop :=
  ∀ s : State, s.st = .idle →
    decode s.space (.byte 0xF7) = .ok .endSysex_stray ∧ exec .endSysex_stray s = .next s

/-! ### The channel track -/

/-- R90, the spec's decision D3 (log 7): a data byte that does not complete the frame is stored whatever its
value, and nothing else changes. The spec's case is an empty buffer (the table's condition `len(col) = 0`); that
a buffer of two bytes or more, outside R15, is treated alike is the model's choice (log 5, DEDUCED). -/
def Obligations.FirstDataByteIsStored : Prop :=
  ∀ (s : State) (d : Byte), s.st = .awaitingChannelData → s.col.length ≠ 1 →
    decode s.space (.byte d) = .ok (.channelData_first d) ∧
    exec (.channelData_first d) s = .next { s with col := s.col ++ [d] }

/-- R91, with R90: the second data byte, whatever its value (the spec's decision D3, log 7: `0xF7` and `0xFF`
are data here), completes the frame: it is emitted with `cmd`, `chan` and both bytes, `col` is
emptied and `st` returns to `Idle`; `cmd` and `chan` keep their values. Through the decoder one event comes
out in the same step, and no error. -/
def Obligations.SecondDataByteCompletesTheFrame : Prop :=
  ∀ (s : State) (d0 d1 : Byte), s.st = .awaitingChannelData → s.col = [d0] →
    decode s.space (.byte d1) = .ok (.channelData_second d1) ∧
    exec (.channelData_second d1) s =
      .next { s with out := { s.out with frame := some (.channel s.cmd s.chan [d0, d1]) },
                     col := [], st := .idle } ∧
    (∀ rest : List Input, s.pending = .rx d1 :: rest → isChannelCommand s.cmd →
      ∃ t e, step s = .next t ∧ t.st = .idle ∧ t.col = [] ∧ t.cmd = s.cmd ∧ t.chan = s.chan ∧
        t.out = { frame := some (.channel s.cmd s.chan [d0, d1]), event := some e,
                  err := none, resp := none })

/-- R117, R118, R119 through the step that completes the frame (R91): the events of the channel-track frames
that carry a value or a mode; the value is what `decodeValue` gives for the two data bytes, which cannot fail.
That any byte completes the frame is the spec's decision D3 (log 7). -/
def Obligations.ValueAndModeFramesBecomeEvents : Prop :=
  ∀ (s : State) (d0 d1 : Byte) (rest : List Input),
    s.st = .awaitingChannelData → s.col = [d0] → s.pending = .rx d1 :: rest →
    ∃ t v, step s = .next t ∧ t.out.frame = some (.channel s.cmd s.chan [d0, d1]) ∧ t.out.err = none ∧
      decodeValue (.two d0 d1) = .ok v ∧
      (s.cmd = 0xE0 → t.out.event = some (.analogMessage (s.chan.setWidth 8) v)) ∧
      (s.cmd = 0x90 → t.out.event = some (.digitalMessage (s.chan.setWidth 8) v)) ∧
      (s.cmd = 0xF4 → t.out.event = some (.setPinMode d0 d1))

/-- R121, R122: the report frames' events carry `data[0]`; that `data[1]` is collected and then ignored is
the spec's decision D24, and that any byte completes the frame its decision D3 (log 7). -/
def Obligations.ReportFramesIgnoreTheSecondByte : Prop :=
  ∀ (s : State) (d0 d1 : Byte) (rest : List Input),
    s.st = .awaitingChannelData → s.col = [d0] → s.pending = .rx d1 :: rest →
    ∃ t, step s = .next t ∧ t.out.err = none ∧
      (s.cmd = 0xC0 → t.out.event = some (.reportAnalog (s.chan.setWidth 8) d0)) ∧
      (s.cmd = 0xD0 → t.out.event = some (.reportDigital (s.chan.setWidth 8) d0))

/-- R92, R183, with the spec's decision D3 (log 7): nothing interrupts the channel track: from `Idle` a
channel command and ANY two bytes give exactly one frame, on the last byte, with those two bytes as data. -/
def Obligations.NothingInterruptsTheChannelTrack : Prop :=
  ∀ (s : State) (base : Byte) (ch : U4) (d0 d1 : Byte), s.st = .idle → s.pending = [] →
    base ∈ [0x90, 0xC0, 0xD0, 0xE0] →
      ∃ e : Event, write [base ||| ch.setWidth 8, d0, d1] s =
        ([Ports.quiet, Ports.quiet,
          { frame := some (.channel base ch [d0, d1]), event := some e, err := none, resp := none }],
         { s with cmd := base, chan := ch, col := [], pos := s.pos + 3,
                  out := { frame := some (.channel base ch [d0, d1]), event := some e,
                           err := none, resp := none } })

/-! ### The sysex track -/

/-- R100: `startSysex` in `Idle` empties `col` and goes to `AwaitingSysex`; the marker is not stored, `cmd`
and `chan` are not written. -/
def Obligations.StartSysexOpensAFrame : Prop :=
  ∀ s : State, s.st = .idle →
    decode s.space (.byte 0xF0) = .ok .startSysex ∧
    exec .startSysex s = .next { s with col := [], st := .awaitingSysex }

/-- R101: a byte other than `0xF7` in `AwaitingSysex` with the buffer not full is stored unchanged, whatever
its value, and nothing else changes. -/
def Obligations.SysexDataIsStored : Prop :=
  ∀ (s : State) (d : Byte), s.st = .awaitingSysex → d ≠ 0xF7 →
    (match s.cfg.sysexMax with
     | .unbounded => True
     | .atMost n => s.col.length < n) →
      decode s.space (.byte d) = .ok (.sysexData d) ∧
      exec (.sysexData d) s = .next { s with col := s.col ++ [d] }

/-- R104, the spec's decision D7 (log 7): a byte other than `0xF7` at the bound raises `OversizedFrame`, is
not stored, empties `col` and returns to `Idle`; `cmd` and `chan` are left as they are. -/
def Obligations.OversizedSysexIsAbandoned : Prop :=
  ∀ (s : State) (d : Byte) (n : Nat), s.st = .awaitingSysex → d ≠ 0xF7 →
    s.cfg.sysexMax = .atMost n → s.col.length = n →
      decode s.space (.byte d) = .ok (.sysexData_oversized d) ∧
      exec (.sysexData_oversized d) s =
        .next { s with out := { s.out with err := some .oversizedFrame }, col := [], st := .idle }

/-- R102: the end marker with a non-empty buffer emits the frame whose command is the first collected byte and
whose payload is the rest, whatever the buffer's length, empties `col` and returns to `Idle`; through the
decoder one event, one error or nothing comes out in the same step. -/
def Obligations.EndMarkerCompletesTheSysexFrame : Prop :=
  ∀ (s : State) (sub : Byte) (data : List Byte), s.st = .awaitingSysex → s.col = sub :: data →
    decode s.space (.byte 0xF7) = .ok .endSysex_complete ∧
    exec .endSysex_complete s =
      .next { s with out := { s.out with frame := some (.sysex sub data) }, col := [], st := .idle } ∧
    (∀ rest : List Input, s.pending = .rx 0xF7 :: rest →
      ∃ t, step s = .next t ∧ t.st = .idle ∧ t.col = [] ∧ t.cmd = s.cmd ∧ t.chan = s.chan ∧
        t.out.frame = some (.sysex sub data) ∧ (t.out.event = none ∨ t.out.err = none))

/-- R103, the spec's decision D6 (log 7): the end marker with an empty buffer returns to `Idle` without a
frame, an event or an error. -/
def Obligations.EmptySysexIsDropped : Prop :=
  ∀ s : State, s.st = .awaitingSysex → s.col = [] →
    decode s.space (.byte 0xF7) = .ok .endSysex_empty ∧
    exec .endSysex_empty s = .next { s with st := .idle }

/-- R182: while `SYSEX_MAX` is not reached an open sysex captures every byte that is not `0xF7`, commands
included: nothing is emitted and `col` grows. -/
def Obligations.OpenSysexCapturesTheStream : Prop :=
  ∀ (bs : List Byte) (s : State), s.st = .awaitingSysex → s.pending = [] → s.out = Ports.quiet →
    (∀ b ∈ bs, b ≠ 0xF7) →
    (match s.cfg.sysexMax with
     | .unbounded => True
     | .atMost n => s.col.length + bs.length ≤ n) →
      write bs s =
        (List.replicate bs.length Ports.quiet, { s with col := s.col ++ bs, pos := s.pos + bs.length })

/-! ### The decoder's sub-command rows -/

/-- R124: the `stringData` row on its frame: the text of a payload of even length is the event, a payload of
odd length is the error `InvalidStringLength` and no event. -/
def Obligations.StringDataRowDecodesThePayload : Prop :=
  ∀ (s : State) (data : List Byte), s.out.frame = some (.sysex 0x71 data) →
    exec .stringData s =
      match decodeString data with
      | .ok text => .next { s with out := { s.out with event := some (.stringData text) } }
      | .error _ => .next { s with out := { s.out with err := some .invalidStringLength } }

/-- R124 through a whole step, with R152: the end marker after a `stringData` payload emits the frame, and
either the event with the text `decodeString` gives, one code a pair, or, for an odd payload, the error without
an event; the tokenizer is in `Idle` with an empty buffer. -/
def Obligations.StringMessageYieldsTextOrError : Prop :=
  ∀ (s : State) (data : List Byte) (rest : List Input),
    s.st = .awaitingSysex → s.col = 0x71 :: data → s.pending = .rx 0xF7 :: rest →
      ∃ t, step s = .next t ∧ t.st = .idle ∧ t.col = [] ∧ t.out.frame = some (.sysex 0x71 data) ∧
        (data.length % 2 = 1 → t.out.event = none ∧ t.out.err = some .invalidStringLength) ∧
        (data.length % 2 = 0 → t.out.err = none ∧
          ∃ text, decodeString data = .ok text ∧ t.out.event = some (.stringData text) ∧
            text.length = data.length / 2)

/-- R123, R125, R126: the three argument-less sub-command rows emit their event; that the payload is ignored,
whatever it holds, is the spec's decision D24 (log 7). -/
def Obligations.ArgumentlessSubcommandRows : Prop :=
  ∀ (s : State) (data : List Byte),
    (s.out.frame = some (.sysex 0x79 data) →
      exec .reportFirmware s = .next { s with out := { s.out with event := some .reportFirmware } }) ∧
    (s.out.frame = some (.sysex 0x6B data) →
      exec .capabilityQuery s = .next { s with out := { s.out with event := some .capabilityQuery } }) ∧
    (s.out.frame = some (.sysex 0x69 data) →
      exec .analogMappingQuery s =
        .next { s with out := { s.out with event := some .analogMappingQuery } })

/-- R127: a frame without a handler is dropped, no event and no error: the two response sub-commands and
every sub-command that is not one of the six named ones; and a channel frame of a command without a handler. -/
def Obligations.FramesWithoutAHandlerAreDropped : Prop :=
  ∀ (s : State) (data : List Byte),
    (s.out.frame = some (.sysex 0x6A data) → exec .analogMappingResponse s = .next s) ∧
    (s.out.frame = some (.sysex 0x6C data) → exec .capabilityResponse s = .next s) ∧
    (∀ x : Byte, x ∉ [0x69, 0x6A, 0x6B, 0x6C, 0x71, 0x79] →
      s.out.frame = some (.sysex x data) → exec (.unknownSubcommand x) s = .next s) ∧
    (∀ (c : Byte) (ch : U4), c ∉ [0x90, 0xC0, 0xD0, 0xE0, 0xF4, 0xF9, 0xFF] →
      s.out.frame = some (.channel c ch data) → attachedDecoder s = .next s)

/-! ### The codec -/

/-- R67 with R65: `decodeValue` answers the join of its two bytes at 16 bits, taken as they are, and fails
with `TruncatedPayload` on fewer. The unmasked join is the spec's decision D8; that the error is both the
response and the `err` transaction is the model's choice (log 10). -/
def Obligations.DecodeValueAnswersTheJoin : Prop :=
  ∀ (s : State) (b0 b1 : Byte),
    exec (.decodeValue (.two b0 b1)) s =
      .next { s with out := { s.out with
        resp := some ⟨.decodeValue, .value (b0.setWidth 16 ||| (b1.setWidth 16 <<< 7))⟩ } } ∧
    exec (.decodeValue (.one b0)) s =
      .next { s with out := { s.out with
        resp := some ⟨.decodeValue, .failed .truncatedPayload⟩, err := some .truncatedPayload } } ∧
    exec (.decodeValue .empty) s =
      .next { s with out := { s.out with
        resp := some ⟨.decodeValue, .failed .truncatedPayload⟩, err := some .truncatedPayload } }

/-- R68, R70, the spec's decision D9 (log 7): the two encoding operations answer two bytes an element, low
group first, in input order, or, when some element exceeds 16383, `ValueOutOfRange` and no bytes. The error as
response and `err` transaction is the model's choice (log 10). -/
def Obligations.EncodersAnswerPairsOrFail : Prop :=
  ∀ (s : State) (vs : List U16),
    ((∀ v ∈ vs, v ≤ 16383) →
      let bytes : List Byte := vs.flatMap (fun v : U16 => [(v &&& 0x7F).setWidth 8, (v >>> 7).setWidth 8])
      exec (.encodeValue vs) s =
        .next { s with out := { s.out with resp := some ⟨.encodeValue, .bytes bytes⟩ } } ∧
      exec (.encodeString vs) s =
        .next { s with out := { s.out with resp := some ⟨.encodeString, .bytes bytes⟩ } }) ∧
    ((∃ v ∈ vs, 16383 < v) →
      exec (.encodeValue vs) s =
        .next { s with out := { s.out with
          resp := some ⟨.encodeValue, .failed .valueOutOfRange⟩, err := some .valueOutOfRange } } ∧
      exec (.encodeString vs) s =
        .next { s with out := { s.out with
          resp := some ⟨.encodeString, .failed .valueOutOfRange⟩, err := some .valueOutOfRange } })

/-- R69: `decodeString` answers, for bytes of even length, the text whose code `k` is the join of bytes `2k`
and `2k+1`, and fails with `InvalidStringLength` on an odd length. The error as response and `err` transaction
is the model's choice (log 10). -/
def Obligations.DecodeStringAnswersOneCodeAPair : Prop :=
  ∀ (s : State) (bytes : List Byte),
    (bytes.length % 2 = 1 →
      exec (.decodeString bytes) s =
        .next { s with out := { s.out with
          resp := some ⟨.decodeString, .failed .invalidStringLength⟩,
          err := some .invalidStringLength } }) ∧
    (bytes.length % 2 = 0 →
      ∃ text : List U16,
        exec (.decodeString bytes) s =
          .next { s with out := { s.out with resp := some ⟨.decodeString, .text text⟩ } } ∧
        text.length = bytes.length / 2 ∧
        ∀ (k : Nat) (lo hi : Byte), bytes[2 * k]? = some lo → bytes[2 * k + 1]? = some hi →
          text[k]? = some (lo.setWidth 16 ||| (hi.setWidth 16 <<< 7)))

/-- R71: the round-trip laws of the codec, all three items: values and texts within 14 bits come back, and
bytes come back exactly when both are below `0x80`. -/
def Obligations.CodecRoundTrips : Prop :=
  (∀ v : U16, v ≤ 16383 →
    ∃ b0 b1, encodeValue [v] = .ok [b0, b1] ∧ decodeValue (.two b0 b1) = .ok v) ∧
  (∀ text : List U16, (∀ c ∈ text, c ≤ 16383) →
    ∃ bytes, encodeString text = .ok bytes ∧ decodeString bytes = .ok text) ∧
  (∀ lo hi : Byte, encodeValue [join14 lo hi] = .ok [lo, hi] ↔ lo ≤ 0x7F ∧ hi ≤ 0x7F)

/-! ### The encoder and the outbound framing -/

/-- R136: `firmataVersion()` answers the three bytes `F9 02 03`. -/
def Obligations.FirmataVersionAnswersThreeBytes : Prop :=
  ∀ s : State, exec .firmataVersion s =
    .next { s with out := { s.out with
      resp := some ⟨.firmataVersion, .bytes [0xF9, 0x02, 0x03]⟩ } }

/-- R137: `firmwareVersion()` answers `[0xF0, 0x79, 0, 1] ++ encodeString("firmata-pi") ++ [0xF7]`. The ten
character codes of the name are ASCII, general knowledge the spec marks as its own (G1, log 8). -/
def Obligations.FirmwareVersionAnswersTheName : Prop :=
  ∃ name, encodeString [0x66, 0x69, 0x72, 0x6D, 0x61, 0x74, 0x61, 0x2D, 0x70, 0x69] = .ok name ∧
    ∀ s : State, exec .firmwareVersion s =
      .next { s with out := { s.out with
        resp := some ⟨.firmwareVersion, .bytes ([0xF0, 0x79, 0, 1] ++ name ++ [0xF7])⟩ } }

/-- R138, R142: `capabilityResponse(pins)` answers the wrapped report, each pin in list order and its modes in
the order digital (input, then output), analog, pwm, servo, i2c, then 127. -/
def Obligations.CapabilityResponseAnswersTheReport : Prop :=
  ∀ (s : State) (pins : List PinCapability),
    exec (.capabilityResponse_build pins) s =
      .next { s with out := { s.out with
        resp := some ⟨.capabilityResponse, .bytes ([0xF0, 0x6C] ++
          pins.flatMap (fun p =>
            (if p.digital = true then [0, 1, 1, 1] else []) ++
            (p.analog.toList.flatMap (fun r => [2, r])) ++
            (p.pwm.toList.flatMap (fun r => [3, r])) ++
            (p.servo.toList.flatMap (fun r => [4, r])) ++
            (if p.i2c = true then [6, 1] else []) ++ [127]) ++ [0xF7])⟩ } }

/-- R139: `analogMappingResponse(pins)` answers one byte a pin between the markers: the index where both
`analog` and `analogMap` are present, else 127. That presence of `analog` is the "analog flag" is the spec's
decision D15 (log 7). -/
def Obligations.AnalogMappingAnswersOneByteAPin : Prop :=
  ∀ (s : State) (pins : List PinCapability),
    ∃ body : List Byte,
      exec (.analogMappingResponse_build pins) s =
        .next { s with out := { s.out with
          resp := some ⟨.analogMappingResponse, .bytes ([0xF0, 0x6A] ++ body ++ [0xF7])⟩ } } ∧
      body.length = pins.length ∧
      ∀ (n : Nat) (p : PinCapability), pins[n]? = some p →
        (∀ k, p.analog ≠ none → p.analogMap = some k → body[n]? = some k) ∧
        (p.analog = none ∨ p.analogMap = none → body[n]? = some 127)

/-- R107, R108: `sysexWrap` puts the markers around the sub-command and the payload and inspects neither
(decision D30, log 7). -/
def Obligations.SysexWrapAnswersTheFraming : Prop :=
  ∀ (s : State) (sub : Byte) (payload : List Byte),
    exec (.sysexWrap sub payload) s =
      .next { s with out := { s.out with
        resp := some ⟨.sysexWrap, .bytes ([0xF0, sub] ++ payload ++ [0xF7])⟩ } }

/-- R109: the loop-back law: a wrapped payload without `0xF7` that fits, fed to a tokenizer in `Idle`, gives
exactly one frame, on the last byte, and leaves the tokenizer in `Idle`. -/
def Obligations.LoopBackGivesTheFrameBack : Prop :=
  ∀ (s : State) (sub : Byte) (payload : List Byte), s.st = .idle → s.pending = [] →
    sub ≠ 0xF7 → (∀ b ∈ payload, b ≠ 0xF7) →
    (match s.cfg.sysexMax with
     | .unbounded => True
     | .atMost n => 1 + payload.length ≤ n) →
      ∃ last : Ports, last.frame = some (.sysex sub payload) ∧
        (write (wrapSysex sub payload) s).1 =
          List.replicate (payload.length + 2) Ports.quiet ++ [last] ∧
        (write (wrapSysex sub payload) s).2.st = .idle ∧ (write (wrapSysex sub payload) s).2.col = []

/-- R143: the two pin-list builders' outputs, fed back, give one frame each and no event, where no resolution
or index is `0xF7` (R141's obligation of the caller) and the frame fits. -/
def Obligations.PinReportsLoopBackWithoutEvents : Prop :=
  ∀ (s : State) (pins : List PinCapability), s.st = .idle → s.pending = [] →
    (∀ p ∈ pins, p.analog ≠ some 0xF7 ∧ p.pwm ≠ some 0xF7 ∧ p.servo ≠ some 0xF7 ∧
      p.analogMap ≠ some 0xF7) →
    s.cfg.sysexMax = .unbounded →
      (∃ data, framesOf (write (buildCapabilityResponse pins) s).1 = [.sysex 0x6C data]) ∧
      eventsOf (write (buildCapabilityResponse pins) s).1 = [] ∧
      (∃ data, framesOf (write (buildAnalogMappingResponse pins) s).1 = [.sysex 0x6A data] ∧
        data.length = pins.length) ∧
      eventsOf (write (buildAnalogMappingResponse pins) s).1 = []

/-! ### Conditions -/

/-- R9, R150, R153: the primitive `raise E` drives `err` with the condition and writes nothing else;
`UnknownCommand` is not reported. What `OversizedFrame` forces beside it, the return to `Idle` with an empty
buffer (R159), is written apart from the primitive by the rule that raises it (R104), and is stated in
`Obligations.OversizedSysexIsAbandoned`. The primitive's notation (R9) is the spec's decision D19 and the numbers
its decision D13 (log 7). -/
def Obligations.TakingAConditionDrivesErrAlone : Prop :=
  (∀ (s : State) (c : Condition), c ≠ .unknownCommand →
    s.raise c = { s with out := { s.out with err := some c } }) ∧
  (∀ s : State, s.raise .unknownCommand = s) ∧
  Condition.truncatedPayload.code = some 1 ∧ Condition.invalidStringLength.code = some 2 ∧
  Condition.oversizedFrame.code = some 3 ∧ Condition.valueOutOfRange.code = some 4 ∧
  Condition.unknownCommand.code = none

/-! ### Frames: what an instruction leaves unchanged -/

/-- The frame of the rows that write no register and no buffer byte: the pure operations, the sub-command
rows, the dropped bytes and the two immediate commands (R41 item 4, R86 to R89, R115): `st`, `cmd`, `chan`,
every byte of the buffer, the parameter, the counter and the offered inputs stay. -/
def Obligations.FrameOfRowsThatWriteNoRegister : Prop :=
  ∀ (i : Instr) (s t : State),
    (match i with
     | .decodeValue _ | .decodeString _ | .encodeString _ | .encodeValue _ | .firmataVersion
     | .firmwareVersion | .capabilityResponse_build _ | .analogMappingResponse_build _
     | .sysexWrap _ _ | .analogMappingQuery | .analogMappingResponse | .capabilityQuery
     | .capabilityResponse | .stringData | .reportFirmware | .unknownSubcommand _
     | .endSysex_stray | .reportVersion | .systemReset | .unknown_00_7F _ | .unknown_80_8F _
     | .unknown_A0_BF _ | .unknown_F1 | .unknown_F2 | .unknown_F3 | .unknown_F5 | .unknown_F6
     | .unknown_F8 | .unknown_FA | .unknown_FB | .unknown_FC | .unknown_FD | .unknown_FE => True
     | _ => False) →
    exec i s = .next t →
      t.st = s.st ∧ t.cmd = s.cmd ∧ t.chan = s.chan ∧
      (∀ a, Memory.readByte t.col a = Memory.readByte s.col a) ∧
      t.cfg = s.cfg ∧ t.pos = s.pos ∧ t.pending = s.pending

/-- The frame of the rows that store a byte and complete nothing (R90, R101): the byte stored to is at
address `len(col)`, every other address reads as before, and no register and no port changes. That
`channelData_first` runs with two bytes or more held, outside R15, is the model's choice (log 5). -/
def Obligations.FrameOfRowsThatStoreAByte : Prop :=
  ∀ (d : Byte) (s t : State),
    (exec (.channelData_first d) s = .next t ∨ exec (.sysexData d) s = .next t) →
      Memory.readByte t.col s.col.length = some d ∧
      (∀ a, a ≠ s.col.length → Memory.readByte t.col a = Memory.readByte s.col a) ∧
      t.st = s.st ∧ t.cmd = s.cmd ∧ t.chan = s.chan ∧ t.out = s.out ∧ t.cfg = s.cfg ∧
      t.pos = s.pos ∧ t.pending = s.pending

/-- The frame of the rows that begin or end a frame (R81 to R85, R91, R100, R102 to R104): the buffer is
emptied, only the five channel-track commands write `cmd` and `chan`, and the event and response ports, the
parameter, the counter and the offered inputs stay. -/
def Obligations.FrameOfRowsThatBeginOrEndAFrame : Prop :=
  ∀ (i : Instr) (s t : State),
    (match i with
     | .digitalMessage _ | .reportAnalog _ | .reportDigital _ | .analogMessage _ | .setPinMode
     | .startSysex | .channelData_second _ | .endSysex_complete | .endSysex_empty
     | .sysexData_oversized _ => True
     | _ => False) →
    exec i s = .next t →
      (∀ a, Memory.readByte t.col a = none) ∧
      (match i with
       | .digitalMessage _ | .reportAnalog _ | .reportDigital _ | .analogMessage _ | .setPinMode => True
       | _ => t.cmd = s.cmd ∧ t.chan = s.chan) ∧
      t.out.event = s.out.event ∧ t.out.resp = s.out.resp ∧
      t.cfg = s.cfg ∧ t.pos = s.pos ∧ t.pending = s.pending
end

