-- ==== Sys2Proof/Laws/Codec.lean ====
section
/-!
SUPPORT. The codec's small lemmas: lengths, the one-element and append forms of the pair lists, and the two
primitives on numbers (40_codec R65 to R70).
-/

namespace Sys2Proof

@[simp] theorem splitPairs_nil : splitPairs [] = [] := rfl

@[simp] theorem splitPairs_cons (v : U16) (vs : List U16) :
    splitPairs (v :: vs) = splitLo v :: splitHi v :: splitPairs vs := rfl

@[simp] theorem joinPairs_nil : joinPairs [] = [] := rfl

@[simp] theorem joinPairs_single (b : Byte) : joinPairs [b] = [] := rfl

@[simp] theorem joinPairs_cons_cons (lo hi : Byte) (rest : List Byte) :
    joinPairs (lo :: hi :: rest) = join14 lo hi :: joinPairs rest := rfl

/-- Two bytes a value (R68). -/
@[simp] theorem splitPairs_length (vs : List U16) : (splitPairs vs).length = 2 * vs.length := by
  induction vs with
  | nil => rfl
  | cons v vs ih => simp [ih]; omega

/-- One code a pair (R69). -/
theorem joinPairs_length : ∀ bs : List Byte, (joinPairs bs).length = bs.length / 2
  | [] => rfl
  | [_] => by simp
  | _ :: _ :: rest => by simp [joinPairs_length rest]; omega

/-- `join14` of two 7-bit bytes is the sum its fields give (R65, range paragraph). -/
theorem join14_toNat_of_7bit {lo hi : Byte} (hlo : lo.toNat < 128) :
    (join14 lo hi).toNat = lo.toNat + 128 * hi.toNat := by
  have h1 : hi.toNat < 256 := hi.isLt
  simp only [join14, BitVec.toNat_or, BitVec.toNat_shiftLeft, BitVec.toNat_setWidth]
  rw [Nat.mod_eq_of_lt (by omega : lo.toNat < 2 ^ 16), Nat.mod_eq_of_lt (by omega : hi.toNat < 2 ^ 16),
    Nat.mod_eq_of_lt (by rw [Nat.shiftLeft_eq]; omega), Nat.or_comm,
    ← Nat.shiftLeft_add_eq_or_of_lt (by omega : lo.toNat < 2 ^ 7), Nat.shiftLeft_eq]
  omega

/-- The low group on numbers (R66). -/
theorem splitLo_toNat (v : U16) : (splitLo v).toNat = v.toNat % 128 := by
  have : (0x7F : Nat) = 2 ^ 7 - 1 := rfl
  simp only [splitLo, BitVec.toNat_setWidth, BitVec.toNat_and]
  rw [show ((0x7F : U16)).toNat = 2 ^ 7 - 1 from rfl, Nat.and_two_pow_sub_one_eq_mod]
  omega

/-- The high group on numbers, within the range `split14` requires (R66). -/
theorem splitHi_toNat {v : U16} (h : v.toNat ≤ 16383) : (splitHi v).toNat = v.toNat / 128 := by
  simp only [splitHi, BitVec.toNat_setWidth, BitVec.toNat_ushiftRight, Nat.shiftRight_eq_div_pow]
  omega

end Sys2Proof
end

