-- ==== Sys2Proof/Laws/Decode.lean ====
section
/-!
SUPPORT. The decoder: what each space answers, and that what it answers is a row that space selects
(30_encoding R53, R62).
-/

namespace Sys2Proof

@[simp] theorem decode_idle (b : Byte) : decode .idle (.byte b) = .ok (decodeIdle b) := rfl
@[simp] theorem decode_channelData (n : Nat) (b : Byte) :
    decode (.channelData n) (.byte b) = .ok (decodeChannelData n b) := rfl
@[simp] theorem decode_sysex (n : Nat) (m : Limit) (b : Byte) :
    decode (.sysex n m) (.byte b) = .ok (decodeSysex n m b) := rfl
@[simp] theorem decode_subcommand (b : Byte) :
    decode .subcommand (.byte b) = .ok (decodeSubcommand b) := rfl
@[simp] theorem decode_port (r : Request) : decode .port (.request r) = .ok (decodeRequest r) := rfl

/-- In `Idle` the decoder answers a row of the space `idle`. -/
theorem selects_decodeIdle : ∀ b : Byte, Space.idle.selects (decodeIdle b) = true := by decide

/-- In the sub-command place it answers a row of the space `subcommand`. -/
theorem selects_decodeSubcommand : ∀ b : Byte, Space.subcommand.selects (decodeSubcommand b) = true := by
  decide

theorem selects_decodeChannelData (n : Nat) (b : Byte) :
    (Space.channelData n).selects (decodeChannelData n b) = true := by
  unfold decodeChannelData; split <;> simp_all [Space.selects]

theorem selects_decodeSysex (n : Nat) (m : Limit) (b : Byte) :
    (Space.sysex n m).selects (decodeSysex n m b) = true := by
  unfold decodeSysex
  split
  · split <;> simp_all [Space.selects]
  · split <;> simp_all [Space.selects]

theorem selects_decodeRequest (r : Request) : Space.port.selects (decodeRequest r) = true := by
  cases r <;> rfl

end Sys2Proof
end

