-- ==== Sys2Proof/Laws/State.lean ====
section
/-!
SUPPORT. The fields of a state after each named update: one lemma per field per update, so that no later
proof unfolds a record update.
-/

namespace Sys2Proof.Machine

variable (s : State)

/-! ### `append` -/

@[simp] theorem State.append_st (b : Byte) : (s.append b).st = s.st := rfl
@[simp] theorem State.append_cmd (b : Byte) : (s.append b).cmd = s.cmd := rfl
@[simp] theorem State.append_chan (b : Byte) : (s.append b).chan = s.chan := rfl
@[simp] theorem State.append_col (b : Byte) : (s.append b).col = s.col ++ [b] := rfl
@[simp] theorem State.append_out (b : Byte) : (s.append b).out = s.out := rfl
@[simp] theorem State.append_pos (b : Byte) : (s.append b).pos = s.pos := rfl
@[simp] theorem State.append_pending (b : Byte) : (s.append b).pending = s.pending := rfl
@[simp] theorem State.append_cfg (b : Byte) : (s.append b).cfg = s.cfg := rfl

/-! ### `clearBuffer` -/

@[simp] theorem State.clearBuffer_st : s.clearBuffer.st = s.st := rfl
@[simp] theorem State.clearBuffer_cmd : s.clearBuffer.cmd = s.cmd := rfl
@[simp] theorem State.clearBuffer_chan : s.clearBuffer.chan = s.chan := rfl
@[simp] theorem State.clearBuffer_col : s.clearBuffer.col = [] := rfl
@[simp] theorem State.clearBuffer_out : s.clearBuffer.out = s.out := rfl
@[simp] theorem State.clearBuffer_pos : s.clearBuffer.pos = s.pos := rfl
@[simp] theorem State.clearBuffer_pending : s.clearBuffer.pending = s.pending := rfl
@[simp] theorem State.clearBuffer_cfg : s.clearBuffer.cfg = s.cfg := rfl

/-! ### `goto` -/

@[simp] theorem State.goto_st (f : Fsm) : (s.goto f).st = f := rfl
@[simp] theorem State.goto_cmd (f : Fsm) : (s.goto f).cmd = s.cmd := rfl
@[simp] theorem State.goto_chan (f : Fsm) : (s.goto f).chan = s.chan := rfl
@[simp] theorem State.goto_col (f : Fsm) : (s.goto f).col = s.col := rfl
@[simp] theorem State.goto_out (f : Fsm) : (s.goto f).out = s.out := rfl
@[simp] theorem State.goto_pos (f : Fsm) : (s.goto f).pos = s.pos := rfl
@[simp] theorem State.goto_pending (f : Fsm) : (s.goto f).pending = s.pending := rfl
@[simp] theorem State.goto_cfg (f : Fsm) : (s.goto f).cfg = s.cfg := rfl

/-! ### `backToIdle` -/

@[simp] theorem State.backToIdle_st : s.backToIdle.st = .idle := rfl
@[simp] theorem State.backToIdle_cmd : s.backToIdle.cmd = s.cmd := rfl
@[simp] theorem State.backToIdle_chan : s.backToIdle.chan = s.chan := rfl
@[simp] theorem State.backToIdle_col : s.backToIdle.col = [] := rfl
@[simp] theorem State.backToIdle_out : s.backToIdle.out = s.out := rfl
@[simp] theorem State.backToIdle_pos : s.backToIdle.pos = s.pos := rfl
@[simp] theorem State.backToIdle_pending : s.backToIdle.pending = s.pending := rfl
@[simp] theorem State.backToIdle_cfg : s.backToIdle.cfg = s.cfg := rfl

/-! ### `beginChannel` -/

@[simp] theorem State.beginChannel_st (c : Byte) (ch : U4) : (s.beginChannel c ch).st = .awaitingChannelData := rfl
@[simp] theorem State.beginChannel_cmd (c : Byte) (ch : U4) : (s.beginChannel c ch).cmd = c := rfl
@[simp] theorem State.beginChannel_chan (c : Byte) (ch : U4) : (s.beginChannel c ch).chan = ch := rfl
@[simp] theorem State.beginChannel_col (c : Byte) (ch : U4) : (s.beginChannel c ch).col = [] := rfl
@[simp] theorem State.beginChannel_out (c : Byte) (ch : U4) : (s.beginChannel c ch).out = s.out := rfl
@[simp] theorem State.beginChannel_pos (c : Byte) (ch : U4) : (s.beginChannel c ch).pos = s.pos := rfl
@[simp] theorem State.beginChannel_pending (c : Byte) (ch : U4) : (s.beginChannel c ch).pending = s.pending := rfl
@[simp] theorem State.beginChannel_cfg (c : Byte) (ch : U4) : (s.beginChannel c ch).cfg = s.cfg := rfl

/-! ### `completeChannel` -/

@[simp] theorem State.completeChannel_st : s.completeChannel.st = .idle := rfl
@[simp] theorem State.completeChannel_cmd : s.completeChannel.cmd = s.cmd := rfl
@[simp] theorem State.completeChannel_chan : s.completeChannel.chan = s.chan := rfl
@[simp] theorem State.completeChannel_col : s.completeChannel.col = [] := rfl
@[simp] theorem State.completeChannel_out : s.completeChannel.out = { s.out with frame := some (.channel s.cmd s.chan s.col) } := rfl
@[simp] theorem State.completeChannel_pos : s.completeChannel.pos = s.pos := rfl
@[simp] theorem State.completeChannel_pending : s.completeChannel.pending = s.pending := rfl
@[simp] theorem State.completeChannel_cfg : s.completeChannel.cfg = s.cfg := rfl

/-! ### `emitFrame` -/

@[simp] theorem State.emitFrame_st (f : Frame) : (s.emitFrame f).st = s.st := rfl
@[simp] theorem State.emitFrame_cmd (f : Frame) : (s.emitFrame f).cmd = s.cmd := rfl
@[simp] theorem State.emitFrame_chan (f : Frame) : (s.emitFrame f).chan = s.chan := rfl
@[simp] theorem State.emitFrame_col (f : Frame) : (s.emitFrame f).col = s.col := rfl
@[simp] theorem State.emitFrame_out (f : Frame) : (s.emitFrame f).out = { s.out with frame := some f } := rfl
@[simp] theorem State.emitFrame_pos (f : Frame) : (s.emitFrame f).pos = s.pos := rfl
@[simp] theorem State.emitFrame_pending (f : Frame) : (s.emitFrame f).pending = s.pending := rfl
@[simp] theorem State.emitFrame_cfg (f : Frame) : (s.emitFrame f).cfg = s.cfg := rfl

/-! ### `emitEvent` -/

@[simp] theorem State.emitEvent_st (e : Event) : (s.emitEvent e).st = s.st := rfl
@[simp] theorem State.emitEvent_cmd (e : Event) : (s.emitEvent e).cmd = s.cmd := rfl
@[simp] theorem State.emitEvent_chan (e : Event) : (s.emitEvent e).chan = s.chan := rfl
@[simp] theorem State.emitEvent_col (e : Event) : (s.emitEvent e).col = s.col := rfl
@[simp] theorem State.emitEvent_out (e : Event) : (s.emitEvent e).out = { s.out with event := some e } := rfl
@[simp] theorem State.emitEvent_pos (e : Event) : (s.emitEvent e).pos = s.pos := rfl
@[simp] theorem State.emitEvent_pending (e : Event) : (s.emitEvent e).pending = s.pending := rfl
@[simp] theorem State.emitEvent_cfg (e : Event) : (s.emitEvent e).cfg = s.cfg := rfl

/-! ### `respond` -/

@[simp] theorem State.respond_st (r : Response) : (s.respond r).st = s.st := rfl
@[simp] theorem State.respond_cmd (r : Response) : (s.respond r).cmd = s.cmd := rfl
@[simp] theorem State.respond_chan (r : Response) : (s.respond r).chan = s.chan := rfl
@[simp] theorem State.respond_col (r : Response) : (s.respond r).col = s.col := rfl
@[simp] theorem State.respond_out (r : Response) : (s.respond r).out = { s.out with resp := some r } := rfl
@[simp] theorem State.respond_pos (r : Response) : (s.respond r).pos = s.pos := rfl
@[simp] theorem State.respond_pending (r : Response) : (s.respond r).pending = s.pending := rfl
@[simp] theorem State.respond_cfg (r : Response) : (s.respond r).cfg = s.cfg := rfl

/-! ### `take` -/

@[simp] theorem State.take_st (rest : List Input) : (s.take rest).st = s.st := rfl
@[simp] theorem State.take_cmd (rest : List Input) : (s.take rest).cmd = s.cmd := rfl
@[simp] theorem State.take_chan (rest : List Input) : (s.take rest).chan = s.chan := rfl
@[simp] theorem State.take_col (rest : List Input) : (s.take rest).col = s.col := rfl
@[simp] theorem State.take_out (rest : List Input) : (s.take rest).out = Ports.quiet := rfl
@[simp] theorem State.take_pos (rest : List Input) : (s.take rest).pos = s.pos := rfl
@[simp] theorem State.take_pending (rest : List Input) : (s.take rest).pending = rest := rfl
@[simp] theorem State.take_cfg (rest : List Input) : (s.take rest).cfg = s.cfg := rfl

/-! ### `accept` -/

@[simp] theorem State.accept_st (rest : List Input) : (s.accept rest).st = s.st := rfl
@[simp] theorem State.accept_cmd (rest : List Input) : (s.accept rest).cmd = s.cmd := rfl
@[simp] theorem State.accept_chan (rest : List Input) : (s.accept rest).chan = s.chan := rfl
@[simp] theorem State.accept_col (rest : List Input) : (s.accept rest).col = s.col := rfl
@[simp] theorem State.accept_out (rest : List Input) : (s.accept rest).out = Ports.quiet := rfl
@[simp] theorem State.accept_pos (rest : List Input) : (s.accept rest).pos = s.pos + 1 := rfl
@[simp] theorem State.accept_pending (rest : List Input) : (s.accept rest).pending = rest := rfl
@[simp] theorem State.accept_cfg (rest : List Input) : (s.accept rest).cfg = s.cfg := rfl

/-! ### `offer` -/

@[simp] theorem State.offer_st (bs : List Byte) : (s.offer bs).st = s.st := rfl
@[simp] theorem State.offer_cmd (bs : List Byte) : (s.offer bs).cmd = s.cmd := rfl
@[simp] theorem State.offer_chan (bs : List Byte) : (s.offer bs).chan = s.chan := rfl
@[simp] theorem State.offer_col (bs : List Byte) : (s.offer bs).col = s.col := rfl
@[simp] theorem State.offer_out (bs : List Byte) : (s.offer bs).out = s.out := rfl
@[simp] theorem State.offer_pos (bs : List Byte) : (s.offer bs).pos = s.pos := rfl
@[simp] theorem State.offer_pending (bs : List Byte) : (s.offer bs).pending = s.pending ++ bs.map .rx := rfl
@[simp] theorem State.offer_cfg (bs : List Byte) : (s.offer bs).cfg = s.cfg := rfl

/-! ### `applyReset` -/

@[simp] theorem State.applyReset_st : s.applyReset.st = .idle := rfl
@[simp] theorem State.applyReset_cmd : s.applyReset.cmd = 0 := rfl
@[simp] theorem State.applyReset_chan : s.applyReset.chan = 0 := rfl
@[simp] theorem State.applyReset_col : s.applyReset.col = [] := rfl
@[simp] theorem State.applyReset_out : s.applyReset.out = Ports.quiet := rfl
@[simp] theorem State.applyReset_pos : s.applyReset.pos = 0 := rfl
@[simp] theorem State.applyReset_pending : s.applyReset.pending = s.pending := rfl
@[simp] theorem State.applyReset_cfg : s.applyReset.cfg = s.cfg := rfl

/-! ### `raise` and `drop`: only the `err` port, and only for a reported condition -/

@[simp] theorem State.raise_st (c : Condition) : (s.raise c).st = s.st := by cases c <;> rfl
@[simp] theorem State.raise_cmd (c : Condition) : (s.raise c).cmd = s.cmd := by cases c <;> rfl
@[simp] theorem State.raise_chan (c : Condition) : (s.raise c).chan = s.chan := by cases c <;> rfl
@[simp] theorem State.raise_col (c : Condition) : (s.raise c).col = s.col := by cases c <;> rfl
@[simp] theorem State.raise_pos (c : Condition) : (s.raise c).pos = s.pos := by cases c <;> rfl
@[simp] theorem State.raise_pending (c : Condition) : (s.raise c).pending = s.pending := by cases c <;> rfl
@[simp] theorem State.raise_cfg (c : Condition) : (s.raise c).cfg = s.cfg := by cases c <;> rfl

theorem State.raise_reported {c : Condition} (h : c.reported = true) :
    s.raise c = { s with out := { s.out with err := some c } } := by
  simp [State.raise, h]

@[simp] theorem State.raise_frame (c : Condition) : (s.raise c).out.frame = s.out.frame := by
  cases c <;> rfl
@[simp] theorem State.raise_event (c : Condition) : (s.raise c).out.event = s.out.event := by
  cases c <;> rfl
@[simp] theorem State.raise_resp (c : Condition) : (s.raise c).out.resp = s.out.resp := by
  cases c <;> rfl

/-- `UnknownCommand` is swallowed: dropping changes nothing at all (R9, R153). -/
@[simp] theorem State.drop_eq : s.drop = s := rfl

/-! ### `space`: what the next byte is read in depends on `st`, the length of `col` and the parameter -/

theorem State.space_idle (h : s.st = .idle) : s.space = .idle := by simp [State.space, h]

theorem State.space_channelData (h : s.st = .awaitingChannelData) :
    s.space = .channelData s.col.length := by simp [State.space, h]

theorem State.space_sysex (h : s.st = .awaitingSysex) :
    s.space = .sysex s.col.length s.cfg.sysexMax := by simp [State.space, h]

@[simp] theorem State.space_accept (rest : List Input) : (s.accept rest).space = s.space := rfl

@[simp] theorem State.space_ne_port : s.space ≠ .port := by
  unfold State.space; split <;> simp

@[simp] theorem State.space_ne_subcommand : s.space ≠ .subcommand := by
  unfold State.space; split <;> simp

/-! ### Quiet ports -/

@[simp] theorem Ports.quiet_frame : Ports.quiet.frame = none := rfl
@[simp] theorem Ports.quiet_event : Ports.quiet.event = none := rfl
@[simp] theorem Ports.quiet_err : Ports.quiet.err = none := rfl
@[simp] theorem Ports.quiet_resp : Ports.quiet.resp = none := rfl

end Sys2Proof.Machine
end

