-- ==== Sys2Proof/Laws/Memory.lean ====
section
/-!
SUPPORT. The buffer: every operation keeps its form (`len(col) <= SYSEX_MAX`, 10_state R14), reading after
appending, and reading an emptied buffer.
-/

namespace Sys2Proof.Machine

/-- The empty buffer has the form under every bound. -/
@[simp] theorem Memory.wf_nil (lim : Limit) : Memory.wf lim [] = true := by
  cases lim <;> simp [Memory.wf, Limit.holds]

/-- Reset leaves a well-formed buffer, whatever the bound. -/
theorem reset_memory_wf (lim : Limit) : Memory.wf lim State.reset.col = true := Memory.wf_nil lim

/-- Emptying keeps the form. -/
theorem clear_memory_wf (lim : Limit) (s : State) : Memory.wf lim s.clearBuffer.col = true := Memory.wf_nil lim

/-- Appending below the bound keeps the form (R101). -/
theorem append_memory_wf {lim : Limit} {s : State} (b : Byte) (h : lim.above s.col.length = true) :
    Memory.wf lim (s.append b).col = true := by
  cases lim with
  | unbounded => rfl
  | atMost m =>
    have : s.col.length < m := by simpa [Limit.above] using h
    simp [Memory.wf, Limit.holds]; omega

/-- A returned-to-`Idle` buffer is empty, so it has the form. -/
theorem backToIdle_memory_wf (lim : Limit) (s : State) : Memory.wf lim s.backToIdle.col = true := Memory.wf_nil lim

/-- A byte read after an append is the appended byte at the old length. -/
theorem readByte_append_new (s : State) (b : Byte) :
    Memory.readByte (s.append b).col s.col.length = some b := by
  simp [Memory.readByte]

/-- Every other address reads as before the append. -/
theorem readByte_append_other (s : State) (b : Byte) {a : Nat} (h : a ≠ s.col.length) :
    Memory.readByte (s.append b).col a = Memory.readByte s.col a := by
  simp only [Memory.readByte, State.append_col, List.getElem?_append]
  split
  · rfl
  · rw [List.getElem?_eq_none (by simp; omega), List.getElem?_eq_none (by omega)]

/-- An emptied buffer has no addresses (R31). -/
@[simp] theorem readByte_nil (a : Nat) : Memory.readByte [] a = none := by simp [Memory.readByte]

end Sys2Proof.Machine
end

