-- ==== Sys2Proof/Laws/Ops.lean ====
section
/-!
SUPPORT. One lemma per shared operation that says once everything it can do: the proofs cite these instead
of unfolding the operation.
-/

namespace Sys2Proof.Machine

/-- A guarded meaning answers a next state exactly where its row is selected. -/
@[simp] theorem whenSelected_next_iff {i : Instr} {s t u : State} :
    whenSelected i s t = .next u ↔ s.space.selects i = true ∧ u = t := by
  unfold whenSelected
  split
  · next h => simp only [Host.Outcome.next.injEq, h, true_and]; exact eq_comm
  · next h => simp [h]

theorem whenSelected_of {i : Instr} {s t : State} (h : s.space.selects i = true) :
    whenSelected i s t = .next t := by simp [h]

/-- Sequencing answers a next state exactly where both parts do. -/
theorem andThen_next_iff {o : Host.Outcome State Fault Refusal}
    {k : State → Host.Outcome State Fault Refusal} {u : State} :
    andThen o k = .next u ↔ ∃ t, o = .next t ∧ k t = .next u := by
  cases o <;> simp [andThen]

@[simp] theorem andThen_next (t : State) (k : State → Host.Outcome State Fault Refusal) :
    andThen (.next t) k = k t := rfl

/-- A sub-command row answers a next state exactly where the step has emitted a sysex frame with that
sub-command, and then it reacts to the payload. -/
theorem onSysexFrame_next_iff {i : Instr} {s u : State} {handler : List Byte → Reaction} :
    onSysexFrame i s handler = .next u ↔
      ∃ sub data, s.out.frame = some (.sysex sub data) ∧ decodeSubcommand sub = i ∧
        u = react s (handler data) := by
  unfold onSysexFrame
  split
  · next sub data hf =>
    split
    · next hi =>
      constructor
      · intro h
        exact ⟨sub, data, hf, hi, (Host.Outcome.next.inj h).symm⟩
      · rintro ⟨sub', data', hf', -, rfl⟩
        obtain ⟨rfl, rfl⟩ : sub = sub' ∧ data = data' := by simpa [hf] using hf'
        rfl
    · next hi =>
      simp only [reduceCtorEq, false_iff]
      rintro ⟨sub', data', hf', hi', -⟩
      obtain ⟨rfl, rfl⟩ : sub = sub' ∧ data = data' := by simpa [hf] using hf'
      exact hi hi'
  · next h => simp [h]
  · next h => simp [h]

theorem onSysexFrame_of {i : Instr} {s : State} {handler : List Byte → Reaction} {sub : Byte}
    {data : List Byte} (hf : s.out.frame = some (.sysex sub data)) (hi : decodeSubcommand sub = i) :
    onSysexFrame i s handler = .next (react s (handler data)) := by
  simp [onSysexFrame, hf, hi]

/-- A handler's reaction touches the ports alone. -/
theorem react_eq (s : State) (r : Reaction) : react s r = { s with out := (react s r).out } := by
  cases r with
  | nothing => rfl
  | event e => rfl
  | error c => cases c <;> rfl

/-- A handler's reaction leaves the frame and the response port as they are. -/
@[simp] theorem react_out_frame (s : State) (r : Reaction) :
    (react s r).out.frame = s.out.frame := by
  cases r with
  | nothing => rfl
  | event e => rfl
  | error c => cases c <;> rfl
@[simp] theorem react_out_resp (s : State) (r : Reaction) :
    (react s r).out.resp = s.out.resp := by
  cases r with
  | nothing => rfl
  | event e => rfl
  | error c => cases c <;> rfl

@[simp] theorem react_nothing (s : State) : react s .nothing = s := rfl
@[simp] theorem react_event (s : State) (e : Event) : react s (.event e) = s.emitEvent e := rfl
@[simp] theorem react_error (s : State) (c : Condition) : react s (.error c) = s.raise c := rfl

/-- A handler's reaction leaves every register, the buffer and what is offered as they are (R131). -/
@[simp] theorem react_st (s : State) (r : Reaction) : (react s r).st = s.st := by
  rw [react_eq]
@[simp] theorem react_cmd (s : State) (r : Reaction) : (react s r).cmd = s.cmd := by
  rw [react_eq]
@[simp] theorem react_chan (s : State) (r : Reaction) : (react s r).chan = s.chan := by
  rw [react_eq]
@[simp] theorem react_col (s : State) (r : Reaction) : (react s r).col = s.col := by
  rw [react_eq]
@[simp] theorem react_pos (s : State) (r : Reaction) : (react s r).pos = s.pos := by
  rw [react_eq]
@[simp] theorem react_pending (s : State) (r : Reaction) : (react s r).pending = s.pending := by
  rw [react_eq]
@[simp] theorem react_cfg (s : State) (r : Reaction) : (react s r).cfg = s.cfg := by
  rw [react_eq]

/-- The answer of a pure operation touches the response and the error port alone. -/
theorem answer_frame (op : PortOp) (r : Except Condition Answer) (s : State) :
    answer op r s = { s with out := (answer op r s).out } := by
  cases r with
  | ok a => rfl
  | error c => cases c <;> rfl

/-- The value handlers of channel-kind frames never fail: they are given two bytes (R67, R117). -/
@[simp] theorem valueReaction_eq (mk : U16 → Event) (d0 d1 : Byte) :
    valueReaction mk d0 d1 = .event (mk (join14 d0 d1)) := rfl

end Sys2Proof.Machine
end

