-- ==== Sys2Proof/Laws/PerInstr.lean ====
section
/-!
SUPPORT. Statements for all instructions, made per instruction. Family `MatchesRow`: the bits the encoder
gives an instruction match the `match` and `mask` its row of spec/opcode_table.json has (30_encoding R62).
-/

namespace Sys2Proof.Laws.MatchesRow

/-- The code of `i` matches the row of `i`: `bits & mask = match` (R62). -/
def Statement (i : Instr) : Prop :=
  (encode i).bits &&& (tablePattern i).2 = (tablePattern i).1

theorem digitalMessage (ch : U4) : Statement (.digitalMessage ch) := by
  unfold Statement; revert ch; decide

theorem reportAnalog (ch : U4) : Statement (.reportAnalog ch) := by
  unfold Statement; revert ch; decide

theorem reportDigital (ch : U4) : Statement (.reportDigital ch) := by
  unfold Statement; revert ch; decide

theorem analogMessage (ch : U4) : Statement (.analogMessage ch) := by
  unfold Statement; revert ch; decide

theorem startSysex : Statement .startSysex := rfl

theorem setPinMode : Statement .setPinMode := rfl

theorem endSysex_stray : Statement .endSysex_stray := rfl

theorem reportVersion : Statement .reportVersion := rfl

theorem systemReset : Statement .systemReset := rfl

theorem unknown_00_7F (x : BitVec 7) : Statement (.unknown_00_7F x) := by
  unfold Statement; revert x; decide

theorem unknown_80_8F (x : BitVec 4) : Statement (.unknown_80_8F x) := by
  unfold Statement; revert x; decide

theorem unknown_A0_BF (x : BitVec 5) : Statement (.unknown_A0_BF x) := by
  unfold Statement; revert x; decide

theorem unknown_F1 : Statement .unknown_F1 := rfl

theorem unknown_F2 : Statement .unknown_F2 := rfl

theorem unknown_F3 : Statement .unknown_F3 := rfl

theorem unknown_F5 : Statement .unknown_F5 := rfl

theorem unknown_F6 : Statement .unknown_F6 := rfl

theorem unknown_F8 : Statement .unknown_F8 := rfl

theorem unknown_FA : Statement .unknown_FA := rfl

theorem unknown_FB : Statement .unknown_FB := rfl

theorem unknown_FC : Statement .unknown_FC := rfl

theorem unknown_FD : Statement .unknown_FD := rfl

theorem unknown_FE : Statement .unknown_FE := rfl

theorem channelData_first (d : Byte) : Statement (.channelData_first d) := by
  simp [Statement, encode, Code.bits, tablePattern]

theorem channelData_second (d : Byte) : Statement (.channelData_second d) := by
  simp [Statement, encode, Code.bits, tablePattern]

theorem endSysex_complete : Statement .endSysex_complete := rfl

theorem endSysex_empty : Statement .endSysex_empty := rfl

theorem sysexData (d : Byte) : Statement (.sysexData d) := by
  simp [Statement, encode, Code.bits, tablePattern]

theorem sysexData_oversized (d : Byte) : Statement (.sysexData_oversized d) := by
  simp [Statement, encode, Code.bits, tablePattern]

theorem analogMappingQuery : Statement .analogMappingQuery := rfl

theorem analogMappingResponse : Statement .analogMappingResponse := rfl

theorem capabilityQuery : Statement .capabilityQuery := rfl

theorem capabilityResponse : Statement .capabilityResponse := rfl

theorem stringData : Statement .stringData := rfl

theorem reportFirmware : Statement .reportFirmware := rfl

theorem unknownSubcommand (x : Byte) : Statement (.unknownSubcommand x) := by
  simp [Statement, encode, Code.bits, tablePattern]

theorem decodeValue (bytes : ValueBytes) : Statement (.decodeValue bytes) := by
  simp [Statement, encode, Code.bits, tablePattern, Request.op, PortOp.selectCode]

theorem decodeString (bytes : List Byte) : Statement (.decodeString bytes) := by
  simp [Statement, encode, Code.bits, tablePattern, Request.op, PortOp.selectCode]

theorem encodeString (text : List U16) : Statement (.encodeString text) := by
  simp [Statement, encode, Code.bits, tablePattern, Request.op, PortOp.selectCode]

theorem encodeValue (values : List U16) : Statement (.encodeValue values) := by
  simp [Statement, encode, Code.bits, tablePattern, Request.op, PortOp.selectCode]

theorem firmataVersion : Statement .firmataVersion := rfl

theorem firmwareVersion : Statement .firmwareVersion := rfl

theorem capabilityResponse_build (pins : List PinCapability) : Statement (.capabilityResponse_build pins) := by
  simp [Statement, encode, Code.bits, tablePattern, Request.op, PortOp.selectCode]

theorem analogMappingResponse_build (pins : List PinCapability) : Statement (.analogMappingResponse_build pins) := by
  simp [Statement, encode, Code.bits, tablePattern, Request.op, PortOp.selectCode]

theorem sysexWrap (sub : Byte) (payload : List Byte) : Statement (.sysexWrap sub payload) := by
  simp [Statement, encode, Code.bits, tablePattern, Request.op, PortOp.selectCode]

end Sys2Proof.Laws.MatchesRow
end

