-- ==== Sys2Proof/Laws/Step.lean ====
section
/-!
SUPPORT. What a step can do, said once: the attached decoder as a reaction to the emitted frame, one equation
per case of the step of a byte, one inversion lemma over all of them, and the step itself by what is offered.
-/

namespace Sys2Proof.Machine

/-! ### The attached decoder -/

/-- The handler table of sysex frames (R115) as one function of the frame. -/
def sysexReaction (sub : Byte) (data : List Byte) : Reaction :=
  if sub = Wire.analogMappingQuery then .event .analogMappingQuery
  else if sub = Wire.capabilityQuery then .event .capabilityQuery
  else if sub = Wire.stringData then stringReaction data
  else if sub = Wire.reportFirmware then .event .reportFirmware
  else .nothing

theorem attachedDecoder_none {s : State} (h : s.out.frame = none) : attachedDecoder s = .next s := by
  simp [attachedDecoder, h]

theorem attachedDecoder_channel {s : State} {c : Byte} {ch : U4} {data : List Byte}
    (h : s.out.frame = some (.channel c ch data)) :
    attachedDecoder s = .next (react s (channelReaction c ch data)) := by
  simp [attachedDecoder, h]

/-- The rows of the space `subcommand`, run on the emitted frame, are the handler table. -/
theorem attachedDecoder_sysex {s : State} {sub : Byte} {data : List Byte}
    (h : s.out.frame = some (.sysex sub data)) :
    attachedDecoder s = .next (react s (sysexReaction sub data)) := by
  have hrow : ∀ i handler, decodeSubcommand sub = i → handler data = sysexReaction sub data →
      onSysexFrame i s handler = .next (react s (sysexReaction sub data)) := by
    intro i handler hi hr
    rw [onSysexFrame_of h hi, hr]
  have hdec : attachedDecoder s = exec (decodeSubcommand sub) s := by simp [attachedDecoder, h]
  rw [hdec]
  by_cases h1 : sub = Wire.analogMappingQuery
  · subst h1; exact hrow .analogMappingQuery _ rfl rfl
  by_cases h2 : sub = Wire.analogMappingResponse
  · subst h2; exact hrow .analogMappingResponse _ rfl rfl
  by_cases h3 : sub = Wire.capabilityQuery
  · subst h3; exact hrow .capabilityQuery _ rfl rfl
  by_cases h4 : sub = Wire.capabilityResponse
  · subst h4; exact hrow .capabilityResponse _ rfl rfl
  by_cases h5 : sub = Wire.stringData
  · subst h5; exact hrow .stringData _ rfl rfl
  by_cases h6 : sub = Wire.reportFirmware
  · subst h6; exact hrow .reportFirmware _ rfl rfl
  have hi : decodeSubcommand sub = .unknownSubcommand sub := by
    simp only [decodeSubcommand, if_neg h1, if_neg h2, if_neg h3, if_neg h4, if_neg h5, if_neg h6]
  rw [hi]
  exact hrow (.unknownSubcommand sub) _ hi
    (by simp only [sysexReaction, if_neg h1, if_neg h3, if_neg h5, if_neg h6])

/-- A channel-kind handler never yields an error (R117 to R122, R158). -/
theorem channelReaction_cases (c : Byte) (ch : U4) (d0 d1 : Byte) :
    channelReaction c ch [d0, d1] = .nothing ∨ ∃ e, channelReaction c ch [d0, d1] = .event e := by
  unfold channelReaction
  simp only [valueReaction_eq]
  repeat' split
  all_goals simp

/-- A command that can be in progress on the channel track has a handler (R115). -/
theorem channelReaction_event {c : Byte} (ch : U4) (d0 d1 : Byte) (h : isChannelCommand c) :
    ∃ e, channelReaction c ch [d0, d1] = .event e := by
  rcases h with rfl | rfl | rfl | rfl | rfl
  · exact ⟨.digitalMessage (pinOf ch) (join14 d0 d1), rfl⟩
  · exact ⟨.reportAnalog (pinOf ch) d0, rfl⟩
  · exact ⟨.reportDigital (pinOf ch) d0, rfl⟩
  · exact ⟨.analogMessage (pinOf ch) (join14 d0 d1), rfl⟩
  · exact ⟨.setPinMode d0 d1, rfl⟩

/-- A sysex-kind handler's only error is `InvalidStringLength`, on a `stringData` payload of odd length
(R124, R158). -/
theorem sysexReaction_cases (sub : Byte) (data : List Byte) :
    sysexReaction sub data = .nothing ∨ (∃ e, sysexReaction sub data = .event e) ∨
      (sub = Wire.stringData ∧ data.length % 2 = 1 ∧
        sysexReaction sub data = .error .invalidStringLength) := by
  unfold sysexReaction
  split
  · simp
  split
  · simp
  split
  · next h =>
    unfold stringReaction decodeString oddLength
    by_cases ho : data.length % 2 = 1 <;> simp_all
  split <;> simp

/-! ### The step of a byte, case by case (R80) -/

theorem runByte_eq (b : Byte) {s : State} {i : Instr} (h : decode s.space (.byte b) = .ok i) :
    runByte b s = andThen (exec i s) attachedDecoder := by
  simp [runByte, h]

theorem runByte_channelData_first (b : Byte) {s : State} (hs : s.st = .awaitingChannelData)
    (hl : s.col.length ≠ 1) (ho : s.out.frame = none) : runByte b s = .next (s.append b) := by
  have hsp := s.space_channelData hs
  rw [runByte_eq b (i := .channelData_first b) (by simp [hsp, decodeChannelData, hl])]
  simp only [exec, execChannelDataFirst]
  rw [whenSelected_of (by simp [hsp, Space.selects, hl])]
  exact attachedDecoder_none ho

theorem runByte_channelData_second (b : Byte) {s : State} {d0 : Byte}
    (hs : s.st = .awaitingChannelData) (hc : s.col = [d0]) :
    runByte b s =
      .next (react (s.append b).completeChannel (channelReaction s.cmd s.chan [d0, b])) := by
  have hsp := s.space_channelData hs
  rw [runByte_eq b (i := .channelData_second b) (by simp [hsp, decodeChannelData, hc])]
  simp only [exec, execChannelDataSecond]
  rw [whenSelected_of (by simp [hsp, Space.selects, hc])]
  rw [andThen_next]
  exact attachedDecoder_channel (by simp [hc])

theorem runByte_sysexData (b : Byte) {s : State} (hs : s.st = .awaitingSysex)
    (hb : b ≠ Wire.endSysex) (hl : s.cfg.sysexMax.above s.col.length = true)
    (ho : s.out.frame = none) : runByte b s = .next (s.append b) := by
  have hsp := s.space_sysex hs
  rw [runByte_eq b (i := .sysexData b) (by
    simp only [hsp, decode_sysex, decodeSysex, if_neg hb, hl, if_true])]
  simp only [exec, execSysexData]
  rw [whenSelected_of (by simp only [hsp, Space.selects, hl, Bool.and_true, bne_iff_ne]; exact hb)]
  exact attachedDecoder_none ho

theorem runByte_oversized (b : Byte) {s : State} (hs : s.st = .awaitingSysex)
    (hb : b ≠ Wire.endSysex) (hl : s.cfg.sysexMax.above s.col.length = false)
    (ho : s.out.frame = none) : runByte b s = .next (s.raise .oversizedFrame).backToIdle := by
  have hsp := s.space_sysex hs
  rw [runByte_eq b (i := .sysexData_oversized b) (by
    simp only [hsp, decode_sysex, decodeSysex, if_neg hb, hl, Bool.false_eq_true, if_false])]
  simp only [exec, execSysexDataOversized]
  rw [whenSelected_of (by
    simp only [hsp, Space.selects, hl, Bool.not_false, Bool.and_true, bne_iff_ne]; exact hb)]
  exact attachedDecoder_none (by simp [ho])

theorem runByte_endSysex_empty {s : State} (hs : s.st = .awaitingSysex) (hc : s.col = [])
    (ho : s.out.frame = none) : runByte Wire.endSysex s = .next (s.goto .idle) := by
  have hsp := s.space_sysex hs
  rw [runByte_eq _ (i := .endSysex_empty) (by simp [hsp, decodeSysex, hc])]
  simp only [exec, execEndSysexEmpty]
  rw [whenSelected_of (by simp [hsp, Space.selects, hc])]
  exact attachedDecoder_none ho

theorem runByte_endSysex_complete {s : State} {sub : Byte} {data : List Byte}
    (hs : s.st = .awaitingSysex) (hc : s.col = sub :: data) :
    runByte Wire.endSysex s =
      .next (react (s.emitFrame (.sysex sub data)).backToIdle (sysexReaction sub data)) := by
  have hsp := s.space_sysex hs
  rw [runByte_eq _ (i := .endSysex_complete) (by simp [hsp, decodeSysex, hc])]
  have he : exec .endSysex_complete s =
      whenSelected .endSysex_complete s (s.emitFrame (.sysex sub data)).backToIdle := by
    simp [exec, execEndSysexComplete, hc]
  rw [he, whenSelected_of (by simp [hsp, Space.selects, hc])]
  rw [andThen_next]
  exact attachedDecoder_sysex (by simp)

/-- The four things a byte accepted in `Idle` can do (R81 to R89, R100). -/
theorem runByte_idle (b : Byte) {s : State} (hs : s.st = .idle) (ho : s.out.frame = none) :
    ∃ t, runByte b s = .next t ∧
      ((∃ c ch, isChannelCommand c ∧ (c = Wire.setPinMode → ch = 0) ∧ t = s.beginChannel c ch) ∨
       (b = Wire.reportVersion ∧
         t = (s.emitFrame (.channel Wire.reportVersion 0 [])).emitEvent .reportVersion) ∨
       (b = Wire.systemReset ∧
         t = (s.emitFrame (.channel Wire.systemReset 0 [])).emitEvent .systemReset) ∨
       t = s ∨ t = s.clearBuffer.goto .awaitingSysex) := by
  have hsp := s.space_idle hs
  have hv : decodeIdle b = .reportVersion → b = Wire.reportVersion := by revert b; decide
  have hr : decodeIdle b = .systemReset → b = Wire.systemReset := by revert b; decide
  have hsel := selects_decodeIdle b
  rw [runByte_eq b (by rw [hsp]; exact decode_idle b)]
  generalize decodeIdle b = i at hsel hv hr ⊢
  have hw : ∀ t, whenSelected i s t = .next t := fun t => whenSelected_of (by rw [hsp]; exact hsel)
  cases i
  case reportVersion =>
    refine ⟨(s.emitFrame (.channel Wire.reportVersion 0 [])).emitEvent .reportVersion, ?_,
      .inr (.inl ⟨hv rfl, rfl⟩)⟩
    simp only [exec, execReportVersion, hw]
    exact attachedDecoder_channel (s := s.emitFrame _) rfl
  case systemReset =>
    refine ⟨(s.emitFrame (.channel Wire.systemReset 0 [])).emitEvent .systemReset, ?_,
      .inr (.inr (.inl ⟨hr rfl, rfl⟩))⟩
    simp only [exec, execSystemReset, hw]
    exact attachedDecoder_channel (s := s.emitFrame _) rfl
  case startSysex =>
    refine ⟨s.clearBuffer.goto .awaitingSysex, ?_, .inr (.inr (.inr (.inr rfl)))⟩
    simp only [exec, execStartSysex, hw]
    exact attachedDecoder_none ho
  case digitalMessage ch =>
    refine ⟨s.beginChannel Wire.digitalMessage ch, ?_, .inl ⟨_, ch, by decide, fun h => absurd h (by decide), rfl⟩⟩
    simp only [exec, execDigitalMessage, hw]
    exact attachedDecoder_none ho
  case reportAnalog ch =>
    refine ⟨s.beginChannel Wire.reportAnalog ch, ?_, .inl ⟨_, ch, by decide, fun h => absurd h (by decide), rfl⟩⟩
    simp only [exec, execReportAnalog, hw]
    exact attachedDecoder_none ho
  case reportDigital ch =>
    refine ⟨s.beginChannel Wire.reportDigital ch, ?_, .inl ⟨_, ch, by decide, fun h => absurd h (by decide), rfl⟩⟩
    simp only [exec, execReportDigital, hw]
    exact attachedDecoder_none ho
  case analogMessage ch =>
    refine ⟨s.beginChannel Wire.analogMessage ch, ?_, .inl ⟨_, ch, by decide, fun h => absurd h (by decide), rfl⟩⟩
    simp only [exec, execAnalogMessage, hw]
    exact attachedDecoder_none ho
  case setPinMode =>
    refine ⟨s.beginChannel Wire.setPinMode 0, ?_, .inl ⟨_, 0, by decide, fun _ => rfl, rfl⟩⟩
    simp only [exec, execSetPinMode, hw]
    exact attachedDecoder_none ho
  all_goals first
    | exact absurd hsel Bool.false_ne_true
    | (refine ⟨s, ?_, .inr (.inr (.inr (.inl rfl)))⟩
       simp only [exec, execEndSysexStray, execUnknown00To7F, execUnknown80To8F, execUnknownA0ToBF,
         execUnknownF1, execUnknownF2, execUnknownF3, execUnknownF5, execUnknownF6, execUnknownF8,
         execUnknownFA, execUnknownFB, execUnknownFC, execUnknownFD, execUnknownFE, hw]
       exact attachedDecoder_none ho)

/-- What the step of a byte can do, in full: the ten ways of R80. Every later fact about a byte's step is a
case analysis on this one. -/
theorem runByte_cases (b : Byte) {s : State} (ho : s.out = Ports.quiet) :
    ∃ t, runByte b s = .next t ∧
      ((s.st = .idle ∧ ∃ c ch, isChannelCommand c ∧ (c = Wire.setPinMode → ch = 0) ∧
          t = s.beginChannel c ch) ∨
       (s.st = .idle ∧ b = Wire.reportVersion ∧
          t = (s.emitFrame (.channel Wire.reportVersion 0 [])).emitEvent .reportVersion) ∨
       (s.st = .idle ∧ b = Wire.systemReset ∧
          t = (s.emitFrame (.channel Wire.systemReset 0 [])).emitEvent .systemReset) ∨
       (s.st = .idle ∧ t = s) ∨
       (s.st = .idle ∧ t = s.clearBuffer.goto .awaitingSysex) ∨
       (s.st = .awaitingChannelData ∧ s.col.length ≠ 1 ∧ t = s.append b) ∨
       (s.st = .awaitingChannelData ∧ ∃ d0, s.col = [d0] ∧
          t = react (s.append b).completeChannel (channelReaction s.cmd s.chan [d0, b])) ∨
       (s.st = .awaitingSysex ∧ b ≠ Wire.endSysex ∧ s.cfg.sysexMax.above s.col.length = true ∧
          t = s.append b) ∨
       (s.st = .awaitingSysex ∧ b ≠ Wire.endSysex ∧ s.cfg.sysexMax.above s.col.length = false ∧
          t = (s.raise .oversizedFrame).backToIdle) ∨
       (s.st = .awaitingSysex ∧ b = Wire.endSysex ∧ s.col = [] ∧ t = s.goto .idle) ∨
       (s.st = .awaitingSysex ∧ b = Wire.endSysex ∧ ∃ sub data, s.col = sub :: data ∧
          t = react (s.emitFrame (.sysex sub data)).backToIdle (sysexReaction sub data))) := by
  have hf : s.out.frame = none := by rw [ho]; rfl
  cases hst : s.st with
  | idle =>
    obtain ⟨t, ht, h⟩ := runByte_idle b hst hf
    refine ⟨t, ht, ?_⟩
    rcases h with h | h | h | h | h
    · exact .inl ⟨rfl, h⟩
    · exact .inr (.inl ⟨rfl, h⟩)
    · exact .inr (.inr (.inl ⟨rfl, h⟩))
    · exact .inr (.inr (.inr (.inl ⟨rfl, h⟩)))
    · exact .inr (.inr (.inr (.inr (.inl ⟨rfl, h⟩))))
  | awaitingChannelData =>
    by_cases hl : s.col.length = 1
    · obtain ⟨d0, hd⟩ := List.length_eq_one_iff.mp hl
      exact ⟨_, runByte_channelData_second b hst hd,
        .inr (.inr (.inr (.inr (.inr (.inr (.inl ⟨rfl, d0, hd, rfl⟩))))))⟩
    · exact ⟨_, runByte_channelData_first b hst hl hf,
        .inr (.inr (.inr (.inr (.inr (.inl ⟨rfl, hl, rfl⟩)))))⟩
  | awaitingSysex =>
    by_cases hb : b = Wire.endSysex
    · subst hb
      cases hc : s.col with
      | nil => exact ⟨_, runByte_endSysex_empty hst hc hf,
        .inr (.inr (.inr (.inr (.inr (.inr (.inr (.inr (.inr (.inl ⟨rfl, rfl, rfl, rfl⟩)))))))))⟩
      | cons sub data => exact ⟨_, runByte_endSysex_complete hst hc,
        .inr (.inr (.inr (.inr (.inr (.inr (.inr (.inr (.inr (.inr (⟨rfl, rfl, sub, data, rfl, rfl⟩))))))))))⟩
    · cases hl : s.cfg.sysexMax.above s.col.length with
      | true => exact ⟨_, runByte_sysexData b hst hb hl hf,
        .inr (.inr (.inr (.inr (.inr (.inr (.inr (.inl ⟨rfl, hb, rfl, rfl⟩)))))))⟩
      | false => exact ⟨_, runByte_oversized b hst hb hl hf,
        .inr (.inr (.inr (.inr (.inr (.inr (.inr (.inr (.inl ⟨rfl, hb, rfl, rfl⟩))))))))⟩

/-! ### The step by what is offered -/

theorem step_nil {s : State} (h : s.pending = []) : step s = .next (s.take []) := by
  simp [step, h]

theorem step_rst {s : State} {rest : List Input} (h : s.pending = .rst :: rest) :
    step s = .next (s.take rest).applyReset := by
  simp [step, h]

theorem step_rx {s : State} {b : Byte} {rest : List Input} (h : s.pending = .rx b :: rest) :
    step s = runByte b (s.accept rest) := by
  simp [step, h]

theorem step_request {s : State} {r : Request} {rest : List Input}
    (h : s.pending = .request r :: rest) : step s = exec (decodeRequest r) (s.take rest) := by
  simp [step, h, runRequest]

/-- A request's step puts a response, a function of the request alone, on the ports and changes nothing
else (R73). -/
theorem exec_decodeRequest (r : Request) :
    ∃ f : Ports → Ports, (∀ p, (f p).resp ≠ none) ∧ (∀ p, (f p).frame = p.frame ∧ (f p).event = p.event) ∧
      ∀ s : State, exec (decodeRequest r) s = .next { s with out := f s.out } := by
  have hresp : ∀ x : Response, some x ≠ none := fun x => Option.some_ne_none x
  cases r with
  | decodeValue bytes =>
    cases bytes with
    | empty =>
      exact ⟨fun p => { p with resp := some ⟨.decodeValue, .failed .truncatedPayload⟩,
                                err := some .truncatedPayload }, fun _ => hresp _, fun _ => ⟨rfl, rfl⟩, fun s => rfl⟩
    | one b0 =>
      exact ⟨fun p => { p with resp := some ⟨.decodeValue, .failed .truncatedPayload⟩,
                                err := some .truncatedPayload }, fun _ => hresp _, fun _ => ⟨rfl, rfl⟩, fun s => rfl⟩
    | two b0 b1 =>
      exact ⟨fun p => { p with resp := some ⟨.decodeValue, .value (join14 b0 b1)⟩ }, fun _ => hresp _, fun _ => ⟨rfl, rfl⟩, fun s => rfl⟩
  | decodeString bytes =>
    cases h : oddLength bytes
    · exact ⟨fun p => { p with resp := some ⟨.decodeString, .text (joinPairs bytes)⟩ }, fun _ => hresp _, fun _ => ⟨rfl, rfl⟩, fun s => by
        simp [decodeRequest, exec, execDecodeString, decodeString, h, answer, State.respond, Except.map]⟩
    · exact ⟨fun p => { p with resp := some ⟨.decodeString, .failed .invalidStringLength⟩,
                                err := some .invalidStringLength }, fun _ => hresp _, fun _ => ⟨rfl, rfl⟩, fun s => by
        simp [decodeRequest, exec, execDecodeString, decodeString, h, answer, State.respond, Except.map,
          State.raise, Condition.reported]⟩
  | encodeString text =>
    cases h : outOfRange text
    · exact ⟨fun p => { p with resp := some ⟨.encodeString, .bytes (splitPairs text)⟩ }, fun _ => hresp _, fun _ => ⟨rfl, rfl⟩, fun s => by
        simp [decodeRequest, exec, execEncodeString, encodeString, h, answer, State.respond, Except.map]⟩
    · exact ⟨fun p => { p with resp := some ⟨.encodeString, .failed .valueOutOfRange⟩,
                                err := some .valueOutOfRange }, fun _ => hresp _, fun _ => ⟨rfl, rfl⟩, fun s => by
        simp [decodeRequest, exec, execEncodeString, encodeString, h, answer, State.respond, Except.map,
          State.raise, Condition.reported]⟩
  | encodeValue values =>
    cases h : outOfRange values
    · exact ⟨fun p => { p with resp := some ⟨.encodeValue, .bytes (splitPairs values)⟩ }, fun _ => hresp _, fun _ => ⟨rfl, rfl⟩, fun s => by
        simp [decodeRequest, exec, execEncodeValue, encodeValue, h, answer, State.respond, Except.map]⟩
    · exact ⟨fun p => { p with resp := some ⟨.encodeValue, .failed .valueOutOfRange⟩,
                                err := some .valueOutOfRange }, fun _ => hresp _, fun _ => ⟨rfl, rfl⟩, fun s => by
        simp [decodeRequest, exec, execEncodeValue, encodeValue, h, answer, State.respond, Except.map,
          State.raise, Condition.reported]⟩
  | firmataVersion =>
    exact ⟨fun p => { p with resp := some ⟨.firmataVersion, .bytes buildFirmataVersion⟩ }, fun _ => hresp _, fun _ => ⟨rfl, rfl⟩, fun s => rfl⟩
  | firmwareVersion =>
    exact ⟨fun p => { p with resp := some ⟨.firmwareVersion, .bytes buildFirmwareVersion⟩ }, fun _ => hresp _, fun _ => ⟨rfl, rfl⟩, fun s => rfl⟩
  | capabilityResponse pins =>
    exact ⟨fun p => { p with resp := some ⟨.capabilityResponse, .bytes (buildCapabilityResponse pins)⟩ }, fun _ => hresp _, fun _ => ⟨rfl, rfl⟩, fun s => rfl⟩
  | analogMappingResponse pins =>
    exact ⟨fun p => { p with resp := some ⟨.analogMappingResponse, .bytes (buildAnalogMappingResponse pins)⟩ }, fun _ => hresp _, fun _ => ⟨rfl, rfl⟩, fun s => rfl⟩
  | sysexWrap sub payload =>
    exact ⟨fun p => { p with resp := some ⟨.sysexWrap, .bytes (wrapSysex sub payload)⟩ }, fun _ => hresp _, fun _ => ⟨rfl, rfl⟩, fun s => rfl⟩

end Sys2Proof.Machine
end

