-- ==== Sys2Proof/Laws/Stream.lean ====
section
/-!
SUPPORT. A byte's step does not look at what is offered behind the byte: replacing it commutes with every
part of the step. And the one-step equations of `run`.
-/

namespace Sys2Proof.Machine

/-- `s` with other inputs offered. -/
def State.withPending (s : State) (p : List Input) : State := { s with pending := p }

/-- The next state of an outcome with other inputs offered. -/
def outcomeWithPending (o : Host.Outcome State Fault Refusal) (p : List Input) :
    Host.Outcome State Fault Refusal :=
  andThen o (fun t => .next (t.withPending p))

theorem whenSelected_withPending (i : Instr) (s t : State) (p : List Input) :
    whenSelected i (s.withPending p) (t.withPending p) =
      outcomeWithPending (whenSelected i s t) p := by
  have : (s.withPending p).space = s.space := rfl
  unfold whenSelected
  rw [this]
  split <;> rfl

theorem react_withPending (s : State) (r : Reaction) (p : List Input) :
    react (s.withPending p) r = (react s r).withPending p := by
  cases r with
  | nothing => rfl
  | event e => rfl
  | error c => cases c <;> rfl

theorem answer_withPending (op : PortOp) (r : Except Condition Answer) (s : State) (p : List Input) :
    answer op r (s.withPending p) = (answer op r s).withPending p := by
  cases r with
  | ok a => rfl
  | error c => cases c <;> rfl

theorem onSysexFrame_withPending (i : Instr) (s : State) (h : List Byte → Reaction) (p : List Input) :
    onSysexFrame i (s.withPending p) h = outcomeWithPending (onSysexFrame i s h) p := by
  have hf : (s.withPending p).out.frame = s.out.frame := rfl
  unfold onSysexFrame
  rw [hf]
  split
  · split
    · rw [react_withPending]; rfl
    · rfl
  · rfl
  · rfl

/-- No instruction looks at what is offered. -/
theorem exec_withPending (i : Instr) (s : State) (p : List Input) :
    exec i (s.withPending p) = outcomeWithPending (exec i s) p := by
  cases i
  case endSysex_complete =>
    have hc : (s.withPending p).col = s.col := rfl
    simp only [exec, execEndSysexComplete]
    rw [hc]
    split
    · rfl
    · next sub data _ =>
      exact whenSelected_withPending .endSysex_complete s (s.emitFrame (.sysex sub data)).backToIdle p
  case decodeValue bytes => exact congrArg Host.Outcome.next (answer_withPending _ _ s p)
  case decodeString bytes => exact congrArg Host.Outcome.next (answer_withPending _ _ s p)
  case encodeString text => exact congrArg Host.Outcome.next (answer_withPending _ _ s p)
  case encodeValue values => exact congrArg Host.Outcome.next (answer_withPending _ _ s p)
  case digitalMessage ch => exact whenSelected_withPending _ s (s.beginChannel Wire.digitalMessage ch) p
  case reportAnalog ch => exact whenSelected_withPending _ s (s.beginChannel Wire.reportAnalog ch) p
  case reportDigital ch => exact whenSelected_withPending _ s (s.beginChannel Wire.reportDigital ch) p
  case analogMessage ch => exact whenSelected_withPending _ s (s.beginChannel Wire.analogMessage ch) p
  case setPinMode => exact whenSelected_withPending _ s (s.beginChannel Wire.setPinMode 0) p
  case startSysex => exact whenSelected_withPending _ s (s.clearBuffer.goto .awaitingSysex) p
  case reportVersion =>
    exact whenSelected_withPending _ s (s.emitFrame (.channel Wire.reportVersion 0 [])) p
  case systemReset =>
    exact whenSelected_withPending _ s (s.emitFrame (.channel Wire.systemReset 0 [])) p
  case channelData_first d => exact whenSelected_withPending _ s (s.append d) p
  case channelData_second d => exact whenSelected_withPending _ s (s.append d).completeChannel p
  case endSysex_empty => exact whenSelected_withPending _ s (s.drop.goto .idle) p
  case sysexData d => exact whenSelected_withPending _ s (s.append d) p
  case sysexData_oversized d =>
    exact whenSelected_withPending _ s (s.raise .oversizedFrame).backToIdle p
  all_goals first
    | exact whenSelected_withPending _ s s.drop p
    | exact onSysexFrame_withPending _ s _ p
    | rfl

theorem attachedDecoder_withPending (s : State) (p : List Input) :
    attachedDecoder (s.withPending p) = outcomeWithPending (attachedDecoder s) p := by
  have hf : (s.withPending p).out.frame = s.out.frame := rfl
  unfold attachedDecoder
  rw [hf]
  split
  · rfl
  · rw [react_withPending]; rfl
  · exact exec_withPending _ s p

/-- The step of a byte commutes with replacing what is offered behind it. -/
theorem runByte_withPending (b : Byte) (s : State) (p : List Input) :
    runByte b (s.withPending p) = outcomeWithPending (runByte b s) p := by
  have hsp : (s.withPending p).space = s.space := rfl
  unfold runByte
  rw [hsp]
  split
  · next i hi =>
    rw [exec_withPending]
    cases exec i s with
    | next t => exact attachedDecoder_withPending t p
    | fault f => cases f
    | refused r => rfl
  · rfl

/-! ### `run`, one step at a time -/

@[simp] theorem run_zero (s : State) : run 0 s = ([], s) := rfl

theorem run_succ {n : Nat} {s t : State} (h : step s = .next t) :
    run (n + 1) s = (t.out :: (run n t).1, (run n t).2) := by
  simp [run, h]

/-- A run of `m + n` steps is a run of `m` and then one of `n`, no step of the first stopping it. -/
theorem run_add (m n : Nat) (s : State) (h : ∀ u : State, ∃ t, step u = .next t) :
    run (m + n) s = ((run m s).1 ++ (run n (run m s).2).1, (run n (run m s).2).2) := by
  induction m generalizing s with
  | zero => simp
  | succ m ih =>
    obtain ⟨t, ht⟩ := h s
    rw [show m + 1 + n = (m + n) + 1 by omega, run_succ ht, run_succ ht, ih t]
    simp

end Sys2Proof.Machine
end

