-- ==== Sys2Proof/Tests/Slice0.lean ====
section
/-!
SUPPORT. The model's own tests and the witnesses of the statements' hypotheses. Expected results are taken from
spec/95_test_vectors.md, spec/opcode_table.json and the encodings of spec/30_encoding.md, never from a run of
the model. `test_…` checks the model, `witness_…` shows a concrete state and operands that meet the hypotheses of
the statement it is named after, one theorem a clause.
-/

namespace Sys2Proof.Tests

open Sys2Proof.Machine

/-! ### Helpers -/

/-- A state with the four pieces of block state, the bound and what is offered; the rest as after reset. -/
def mk (st : Fsm) (cmd : Byte) (chan : U4) (col : List Byte) (pending : List Input := [])
    (lim : Limit := .unbounded) : State :=
  { State.reset with st := st, cmd := cmd, chan := chan, col := col, pending := pending,
                     cfg := { sysexMax := lim } }

/-- The next state of an outcome, if it is one. -/
def nextOf : Host.Outcome State Fault Refusal → Option State
  | .next t => some t
  | .fault _ => none
  | .refused _ => none

/-- What a vector of spec/95 shows of a step: the state `(st, cmd, chan, col)` after it and its outputs. -/
def seen (s : State) : Option (Fsm × Byte × U4 × List Byte × Ports) :=
  (nextOf (step s)).map fun t => (t.st, t.cmd, t.chan, t.col, t.out)

/-- The transactions of a byte's step. -/
def ports (frame : Option Frame) (event : Option Event) (err : Option Condition) : Ports :=
  { frame := frame, event := event, err := err, resp := none }

/-- A step from reset on one request: its response and its error. -/
def asked (r : Request) : Option (Option Answer × Option Condition) :=
  (nextOf (step { State.reset with pending := [.request r] })).map fun t =>
    (t.out.resp.map (·.answer), t.out.err)

/-- The instruction a byte decodes to in a space. -/
def decoded (sp : Space) (b : Byte) : Option Instr := (decode sp (.byte b)).toOption

/-! ### WellFormed: an ill-formed term for each check, refused -/

theorem test_wf_refuses_endSysex_as_data : (Instr.sysexData 0xF7).wf = false := by decide

theorem test_wf_refuses_endSysex_as_oversized_data :
    (Instr.sysexData_oversized 0xF7).wf = false := by decide

theorem test_wf_refuses_endSysex_as_subcommand :
    (Instr.unknownSubcommand 0xF7).wf = false := by decide

theorem test_wf_refuses_named_subcommands :
    (Instr.unknownSubcommand 0x69).wf = false ∧ (Instr.unknownSubcommand 0x6A).wf = false ∧
    (Instr.unknownSubcommand 0x6B).wf = false ∧ (Instr.unknownSubcommand 0x6C).wf = false ∧
    (Instr.unknownSubcommand 0x71).wf = false ∧ (Instr.unknownSubcommand 0x79).wf = false := by decide

theorem test_wf_accepts_neighbours :
    (Instr.sysexData 0xF8).wf = true ∧ (Instr.sysexData_oversized 0xF6).wf = true ∧
    (Instr.unknownSubcommand 0x70).wf = true := by decide

/-! ### Decode: every constructor by a word written out from the spec's encoding -/

/-- R45, R46, R53: channel commands, base and channel written out bit by bit. -/
theorem test_decode_channel_commands :
    decoded .idle 0b10010101 = some (.digitalMessage 5) ∧
    decoded .idle 0b11001111 = some (.reportAnalog 15) ∧
    decoded .idle 0b11010111 = some (.reportDigital 7) ∧
    decoded .idle 0b11101010 = some (.analogMessage 10) := by decide

/-- R45, R53: the fixed commands. -/
theorem test_decode_fixed_commands :
    decoded .idle 0b11110000 = some .startSysex ∧ decoded .idle 0b11110100 = some .setPinMode ∧
    decoded .idle 0b11110111 = some .endSysex_stray ∧
    decoded .idle 0b11111001 = some .reportVersion ∧
    decoded .idle 0b11111111 = some .systemReset := by decide

/-- R53: the three unknown ranges. -/
theorem test_decode_unknown_ranges :
    decoded .idle 0b01111111 = some (.unknown_00_7F 0b1111111) ∧
    decoded .idle 0b10001000 = some (.unknown_80_8F 0b1000) ∧
    decoded .idle 0b10110011 = some (.unknown_A0_BF 0b10011) := by decide

/-- R53: the eleven unknown single values. -/
theorem test_decode_unknown_single_values :
    decoded .idle 0b11110001 = some .unknown_F1 ∧ decoded .idle 0b11110010 = some .unknown_F2 ∧
    decoded .idle 0b11110011 = some .unknown_F3 ∧ decoded .idle 0b11110101 = some .unknown_F5 ∧
    decoded .idle 0b11110110 = some .unknown_F6 ∧ decoded .idle 0b11111000 = some .unknown_F8 ∧
    decoded .idle 0b11111010 = some .unknown_FA ∧ decoded .idle 0b11111011 = some .unknown_FB ∧
    decoded .idle 0b11111100 = some .unknown_FC ∧ decoded .idle 0b11111101 = some .unknown_FD ∧
    decoded .idle 0b11111110 = some .unknown_FE := by decide

/-- R53, R90: on the channel track every byte is data. -/
theorem test_decode_channel_data :
    decoded (.channelData 0) 0b11111111 = some (.channelData_first 0xFF) ∧
    decoded (.channelData 1) 0b11110111 = some (.channelData_second 0xF7) := by decide

/-- R53, R101 to R104: on the sysex track only `0xF7` ends the frame. -/
theorem test_decode_sysex :
    decoded (.sysex 1 .unbounded) 0b11110111 = some .endSysex_complete ∧
    decoded (.sysex 0 .unbounded) 0b11110111 = some .endSysex_empty ∧
    decoded (.sysex 3 (.atMost 4)) 0b11110000 = some (.sysexData 0xF0) ∧
    decoded (.sysex 4 (.atMost 4)) 0b11110000 = some (.sysexData_oversized 0xF0) := by decide

/-- R47, R56: the sub-commands. -/
theorem test_decode_subcommands :
    decoded .subcommand 0b01101001 = some .analogMappingQuery ∧
    decoded .subcommand 0b01101010 = some .analogMappingResponse ∧
    decoded .subcommand 0b01101011 = some .capabilityQuery ∧
    decoded .subcommand 0b01101100 = some .capabilityResponse ∧
    decoded .subcommand 0b01110001 = some .stringData ∧
    decoded .subcommand 0b01111001 = some .reportFirmware ∧
    decoded .subcommand 0b01010101 = some (.unknownSubcommand 0x55) := by decide

/-- R61: the operation-select codes, as 4-bit words with operands of zeros. -/
theorem test_decode_select_codes :
    decodeTableWord 4 0b0000 = some (.decodeValue .empty) ∧
    decodeTableWord 4 0b0001 = some (.decodeString []) ∧
    decodeTableWord 4 0b0010 = some (.encodeString []) ∧
    decodeTableWord 4 0b0011 = some (.encodeValue []) ∧
    decodeTableWord 4 0b0100 = some .firmataVersion ∧
    decodeTableWord 4 0b0101 = some .firmwareVersion ∧
    decodeTableWord 4 0b0110 = some (.capabilityResponse_build []) ∧
    decodeTableWord 4 0b0111 = some (.analogMappingResponse_build []) ∧
    decodeTableWord 4 0b1000 = some (.sysexWrap 0 []) ∧
    decodeTableWord 4 0b1001 = none := by decide

/-- R21, R52, R107: a request's operands are read as given. -/
theorem test_decode_requests :
    (decode .port (.request (.decodeValue (.two 0x68 0x07)))).toOption =
      some (.decodeValue (.two 0x68 0x07)) ∧
    (decode .port (.request (.sysexWrap 0x71 [0x48, 0x00]))).toOption =
      some (.sysexWrap 0x71 [0x48, 0x00]) := by decide

/-- The decoder rejects by name. -/
theorem test_decode_rejects_by_name :
    (decode .port (.byte 0x90)).toOption = none ∧
    (decode .idle (.request .firmataVersion)).toOption = none := by decide

/-- R62: table words; a byte value that several spaces share is read where log 6 says. -/
theorem test_decodeTableWord :
    decodeTableWord 8 0x95 = some (.digitalMessage 5) ∧ decodeTableWord 8 0x71 = some .stringData ∧
    decodeTableWord 8 0x08 = some (.sysexWrap 0 []) ∧
    decodeTableWord 8 0x42 = some (.unknown_00_7F 0x42) := by decide

/-- Log 6: the very next step runs a placed word: a byte, a sub-command, an operation. -/
theorem test_withFetchWord_byte :
    (nextOf (step (State.reset.withFetchWord 8 0xE3))).map (fun t => (t.st, t.cmd, t.chan)) =
      some (.awaitingChannelData, 0xE0, 3) := by decide

theorem test_withFetchWord_subcommand :
    (nextOf (step (State.reset.withFetchWord 8 0x6B))).map (fun t => t.out.event) =
      some (some .capabilityQuery) := by decide

theorem test_withFetchWord_request :
    (nextOf (step (State.reset.withFetchWord 8 0x04))).map (fun t => t.out.resp) =
      some (some { port := .firmataVersion, answer := .bytes [0xF9, 0x02, 0x03] }) := by decide

/-! ### One step from reset, spec/95 section 2.2 -/

theorem test_digitalMessage : seen (mk .idle 0x00 0 [] [.rx 0x9F]) =
    some (.awaitingChannelData, 0x90, 15, [], Ports.quiet) := by decide

theorem test_reportAnalog : seen (mk .idle 0x00 0 [] [.rx 0xCF]) =
    some (.awaitingChannelData, 0xC0, 15, [], Ports.quiet) := by decide

theorem test_reportDigital : seen (mk .idle 0x00 0 [] [.rx 0xD7]) =
    some (.awaitingChannelData, 0xD0, 7, [], Ports.quiet) := by decide

theorem test_analogMessage : seen (mk .idle 0x00 0 [] [.rx 0xEA]) =
    some (.awaitingChannelData, 0xE0, 10, [], Ports.quiet) := by decide

/-- The channel is written even where it was another (decision D4). -/
theorem test_setPinMode : seen (mk .idle 0x90 5 [] [.rx 0xF4]) =
    some (.awaitingChannelData, 0xF4, 0, [], Ports.quiet) := by decide

theorem test_startSysex : seen (mk .idle 0x90 5 [] [.rx 0xF0]) =
    some (.awaitingSysex, 0x90, 5, [], Ports.quiet) := by decide

theorem test_endSysex_stray : seen (mk .idle 0x00 0 [] [.rx 0xF7]) =
    some (.idle, 0x00, 0, [], Ports.quiet) := by decide

/-- P3, step 6: `cmd` keeps `0xF4`. -/
theorem test_reportVersion : seen (mk .idle 0xF4 0 [] [.rx 0xF9]) =
    some (.idle, 0xF4, 0, [], ports (some (.channel 0xF9 0 [])) (some .reportVersion) none) := by decide

/-- P3, step 7: nothing is reset. -/
theorem test_systemReset : seen (mk .idle 0xF4 0 [] [.rx 0xFF]) =
    some (.idle, 0xF4, 0, [], ports (some (.channel 0xFF 0 [])) (some .systemReset) none) := by decide

/-- A byte in `Idle` that changes nothing and outputs nothing. -/
def dropped (b : Byte) : Bool :=
  seen (mk .idle 0xE0 3 [] [.rx b]) == some (.idle, 0xE0, 3, [], Ports.quiet)

theorem test_unknown_ranges_are_dropped :
    ([0x00, 0x7F, 0x80, 0x8F, 0xA0, 0xBF].all dropped) = true := by decide

theorem test_unknown_single_values_are_dropped :
    ([0xF1, 0xF2, 0xF3, 0xF5, 0xF6, 0xF8].all dropped) = true ∧
    ([0xFA, 0xFB, 0xFC, 0xFD, 0xFE].all dropped) = true := by decide

/-! ### The channel track, spec/95 section 2.3 -/

theorem test_channelData_first : seen (mk .awaitingChannelData 0x90 0 [] [.rx 0xF0]) =
    some (.awaitingChannelData, 0x90, 0, [0xF0], Ports.quiet) := by decide

theorem test_channelData_second_unmasked_join :
    seen (mk .awaitingChannelData 0x90 0 [0xF0] [.rx 0xF7]) =
      some (.idle, 0x90, 0, [],
        ports (some (.channel 0x90 0 [0xF0, 0xF7])) (some (.digitalMessage 0 31728)) none) := by decide

theorem test_channelData_second_reportAnalog :
    seen (mk .awaitingChannelData 0xC0 3 [0x01] [.rx 0x55]) =
      some (.idle, 0xC0, 3, [],
        ports (some (.channel 0xC0 3 [0x01, 0x55])) (some (.reportAnalog 3 1)) none) := by decide

theorem test_event_of_analogMessage : seen (mk .awaitingChannelData 0xE0 15 [0x68] [.rx 0x07]) =
    some (.idle, 0xE0, 15, [],
        ports (some (.channel 0xE0 15 [0x68, 0x07])) (some (.analogMessage 15 1000)) none) := by decide

theorem test_event_of_reportDigital : seen (mk .awaitingChannelData 0xD0 1 [0x00] [.rx 0x55]) =
    some (.idle, 0xD0, 1, [],
        ports (some (.channel 0xD0 1 [0x00, 0x55])) (some (.reportDigital 1 0)) none) := by decide

theorem test_event_of_setPinMode : seen (mk .awaitingChannelData 0xF4 0 [0x0D] [.rx 0x0B]) =
    some (.idle, 0xF4, 0, [],
        ports (some (.channel 0xF4 0 [0x0D, 0x0B])) (some (.setPinMode 13 11)) none) := by decide

/-! ### The sysex track, spec/95 sections 2.4 and 2.6 -/

theorem test_sysexData_stores_commands : seen (mk .awaitingSysex 0x00 0 [0x71, 0x48, 0x00] [.rx 0xFF]) =
    some (.awaitingSysex, 0x00, 0, [0x71, 0x48, 0x00, 0xFF], Ports.quiet) := by decide

/-- P5, step 4: the byte that fills the buffer is still stored. -/
theorem test_sysexData_fills_the_buffer :
    seen (mk .awaitingSysex 0x00 0 [0x71, 0x01, 0x02] [.rx 0x03] (.atMost 4)) =
      some (.awaitingSysex, 0x00, 0, [0x71, 0x01, 0x02, 0x03], Ports.quiet) := by decide

/-- P5, step 5. -/
theorem test_sysexData_oversized :
    seen (mk .awaitingSysex 0x90 5 [0x71, 0x01, 0x02, 0x03] [.rx 0x04] (.atMost 4)) =
      some (.idle, 0x90, 5, [], ports none none (some .oversizedFrame)) := by decide

theorem test_endSysex_empty : seen (mk .awaitingSysex 0x90 5 [] [.rx 0xF7] (.atMost 1)) =
    some (.idle, 0x90, 5, [], Ports.quiet) := by decide

/-- The end marker is not counted: four bytes fit exactly, and three are an odd payload. -/
theorem test_endSysex_complete_at_the_bound :
    seen (mk .awaitingSysex 0x00 0 [0x71, 0x01, 0x02, 0x03] [.rx 0xF7] (.atMost 4)) =
      some (.idle, 0x00, 0, [],
        ports (some (.sysex 0x71 [0x01, 0x02, 0x03])) none (some .invalidStringLength)) := by decide

theorem test_stringData : seen (mk .awaitingSysex 0x00 0 [0x71, 0xE0, 0x01, 0xF0, 0xFF] [.rx 0xF7]) =
    some (.idle, 0x00, 0, [],
        ports (some (.sysex 0x71 [0xE0, 0x01, 0xF0, 0xFF])) (some (.stringData [224, 32752])) none) := by decide

theorem test_reportFirmware : seen (mk .awaitingSysex 0x00 0 [0x79, 0x00, 0x01] [.rx 0xF7]) =
    some (.idle, 0x00, 0, [],
        ports (some (.sysex 0x79 [0x00, 0x01])) (some .reportFirmware) none) := by decide

theorem test_capabilityQuery : seen (mk .awaitingSysex 0x00 0 [0x6B] [.rx 0xF7]) =
    some (.idle, 0x00, 0, [], ports (some (.sysex 0x6B [])) (some .capabilityQuery) none) := by decide

theorem test_analogMappingQuery : seen (mk .awaitingSysex 0x00 0 [0x69] [.rx 0xF7]) =
    some (.idle, 0x00, 0, [], ports (some (.sysex 0x69 [])) (some .analogMappingQuery) none) := by decide

theorem test_capabilityResponse_frame_is_dropped :
    seen (mk .awaitingSysex 0x00 0 [0x6C, 0x7F] [.rx 0xF7]) =
      some (.idle, 0x00, 0, [], ports (some (.sysex 0x6C [0x7F])) none none) := by decide

theorem test_analogMappingResponse_frame_is_dropped :
    seen (mk .awaitingSysex 0x00 0 [0x6A, 0x00, 0x7F, 0x7F] [.rx 0xF7]) =
      some (.idle, 0x00, 0, [], ports (some (.sysex 0x6A [0x00, 0x7F, 0x7F])) none none) := by decide

theorem test_unknownSubcommand : seen (mk .awaitingSysex 0x00 0 [0x90, 0x05, 0x01] [.rx 0xF7]) =
    some (.idle, 0x00, 0, [], ports (some (.sysex 0x90 [0x05, 0x01])) none none) := by decide

/-! ### Reset and no input, spec/95 section 2.7 -/

theorem test_rst : seen (mk .awaitingChannelData 0x90 5 [0x05] [.rst, .rx 0x01]) =
    some (.idle, 0x00, 0, [], Ports.quiet) := by decide

/-- `95 05` and nothing more: the tokenizer waits, no error. -/
theorem test_waits : seen (mk .awaitingChannelData 0x90 5 [0x05]) =
    some (.awaitingChannelData, 0x90, 5, [0x05], Ports.quiet) := by decide

/-! ### The pure ports, spec/95 sections 2.1, 2.4, 2.5 and part 1 -/

theorem test_decodeValue :
    asked (.decodeValue (.two 0xF0 0xF7)) = some (some (.value 31728), none) ∧
    asked (.decodeValue (.two 0x68 0x07)) = some (some (.value 1000), none) ∧
    asked (.decodeValue (.two 0x80 0x00)) = some (some (.value 128), none) := by decide

theorem test_decodeValue_truncated :
    asked (.decodeValue (.one 0x05)) =
      some (some (.failed .truncatedPayload), some .truncatedPayload) ∧
    asked (.decodeValue .empty) =
      some (some (.failed .truncatedPayload), some .truncatedPayload) := by decide

theorem test_encodeValue :
    asked (.encodeValue [0, 127, 128, 1000, 16383, 133]) =
      some (some (.bytes [0x00, 0x00, 0x7F, 0x00, 0x00, 0x01, 0x68, 0x07, 0x7F, 0x7F, 0x05, 0x01]), none)
    := by decide

/-- No partial output. -/
theorem test_encodeValue_out_of_range :
    asked (.encodeValue [1, 16384]) = some (some (.failed .valueOutOfRange), some .valueOutOfRange) := by
  decide

theorem test_decodeString :
    asked (.decodeString [0x48, 0x00, 0x69, 0x00]) = some (some (.text [0x48, 0x69]), none) ∧
    asked (.decodeString []) = some (some (.text []), none) := by decide

theorem test_decodeString_odd :
    asked (.decodeString [0x48, 0x00, 0x69]) =
      some (some (.failed .invalidStringLength), some .invalidStringLength) := by decide

theorem test_encodeString :
    asked (.encodeString [300]) = some (some (.bytes [0x2C, 0x02]), none) ∧
    asked (.encodeString [16383]) = some (some (.bytes [0x7F, 0x7F]), none) := by decide

theorem test_encodeString_out_of_range :
    asked (.encodeString [16384]) = some (some (.failed .valueOutOfRange), some .valueOutOfRange) := by
  decide

/-- S3. -/
theorem test_firmataVersion :
    asked .firmataVersion = some (some (.bytes [0xF9, 0x02, 0x03]), none) := by decide

/-- S4. -/
theorem test_firmwareVersion :
    asked .firmwareVersion = some (some (.bytes
      [0xF0, 0x79, 0x00, 0x01, 0x66, 0x00, 0x69, 0x00, 0x72, 0x00, 0x6D, 0x00, 0x61, 0x00, 0x74, 0x00,
       0x61, 0x00, 0x2D, 0x00, 0x70, 0x00, 0x69, 0x00, 0xF7]), none) := by decide

/-- S5. -/
theorem test_capabilityResponse_build :
    asked (.capabilityResponse
      [{ digital := true, analog := some 10, pwm := some 8, servo := some 14, i2c := true }]) =
      some (some (.bytes [0xF0, 0x6C, 0x00, 0x01, 0x01, 0x01, 0x02, 0x0A, 0x03, 0x08, 0x04, 0x0E, 0x06,
        0x01, 0x7F, 0xF7]), none) := by decide

/-- Section 2.5: a present field of value 0, and a pin without capability. -/
theorem test_capabilityResponse_build_presence :
    asked (.capabilityResponse [{ analog := some 0 }, {}]) =
      some (some (.bytes [0xF0, 0x6C, 0x02, 0x00, 0x7F, 0x7F, 0xF7]), none) := by decide

/-- S7. -/
theorem test_analogMappingResponse_build :
    asked (.analogMappingResponse
      [{ analog := some 10, analogMap := some 0 }, {}, { digital := true }]) =
      some (some (.bytes [0xF0, 0x6A, 0x00, 0x7F, 0x7F, 0xF7]), none) := by decide

theorem test_analogMappingResponse_build_needs_both :
    asked (.analogMappingResponse [{ analogMap := some 5 }, { analog := some 10 }]) =
      some (some (.bytes [0xF0, 0x6A, 0x7F, 0x7F, 0xF7]), none) := by decide

/-- Section 2.4. -/
theorem test_sysexWrap :
    asked (.sysexWrap 0x71 [0x48, 0x00, 0x69, 0x00]) =
      some (some (.bytes [0xF0, 0x71, 0x48, 0x00, 0x69, 0x00, 0xF7]), none) ∧
    asked (.sysexWrap 0x6B []) = some (some (.bytes [0xF0, 0x6B, 0xF7]), none) := by decide

/-! ### The notation, R59, R60 -/

/-- S9: three chunks. -/
theorem test_assemble_chunks :
    (assemble [.startSysex, .byteList [0x71], .chunkBoundary, .byteList [0x48, 0x00, 0x69, 0x00],
      .chunkBoundary, .endSysex]).toOption =
      some [[0xF0, 0x71], [0x48, 0x00, 0x69, 0x00], [0xF7]] := by decide

/-- P1 and P2. -/
theorem test_macro_bytes :
    (Line.digitalValue 5 133).bytes.toOption = some [0x95, 0x05, 0x01] ∧
    (Line.stringData [0x48, 0x69]).bytes.toOption =
      some [0xF0, 0x71, 0x48, 0x00, 0x69, 0x00, 0xF7] := by decide

/-! ### Witnesses: encoding -/

theorem witness_DecodeUndoesEncode :
    (Instr.sysexData 0xF6).wf = true ∧ (Space.sysex 3 (.atMost 4)).selects (.sysexData 0xF6) = true := by
  decide

theorem witness_EncodeUndoesDecode :
    decode .subcommand (.byte 0xF6) = .ok (.unknownSubcommand 0xF6) ∧
    ((Space.subcommand = .subcommand → Code.byte 0xF6 ≠ .byte 0xF7)) := ⟨rfl, by decide⟩

theorem witness_RowsStop_byte_row :
    Space.port.selects (.channelData_second 5) = false ∧
    Space.subcommand.selects (.channelData_second 5) = false ∧
    (mk .awaitingChannelData 0x90 5 []).space.selects (.channelData_second 5) = false := by decide

/-- A state in which the step has emitted a sysex frame. -/
def emitted (sub : Byte) (data : List Byte) : State := (mk .idle 0x00 0 []).emitFrame (.sysex sub data)

theorem witness_RowsStop_subcommand_row :
    Space.subcommand.selects .stringData = true ∧
    (∀ sub data, (emitted 0x79 []).out.frame = some (.sysex sub data) → decodeSubcommand sub ≠ .stringData) := by
  refine ⟨by decide, ?_⟩
  intro sub data h
  cases h
  decide

/-! ### Witnesses: the step and the whole machine -/

theorem witness_StepRunsTheDecodedByte :
    (mk .awaitingSysex 0x00 0 [0x71] [.rx 0xF7, .rst]).pending = .rx 0xF7 :: [.rst] ∧
    decode (mk .awaitingSysex 0x00 0 [0x71] [.rx 0xF7, .rst]).space (.byte 0xF7) = .ok .endSysex_complete :=
  ⟨rfl, rfl⟩

theorem witness_StepRunsTheRequestedOperation :
    (mk .awaitingSysex 0x00 0 [0x71] [.request .firmataVersion]).pending = .request .firmataVersion :: [] ∧
    decode .port (.request .firmataVersion) = .ok .firmataVersion := ⟨rfl, rfl⟩

theorem witness_AttachedDecoder_without_frame : State.reset.out.frame = none := rfl

theorem witness_AttachedDecoder_sysex :
    (emitted 0x71 [0x48]).out.frame = some (.sysex 0x71 [0x48]) ∧
    decode .subcommand (.byte 0x71) = .ok .stringData := ⟨rfl, rfl⟩

theorem witness_NothingOfferedChangesNothing : (mk .awaitingSysex 0x00 0 [0x71]).pending = [] := rfl

theorem witness_ResetInputGivesTheResetState :
    (mk .awaitingChannelData 0x90 5 [0x05] [.rst, .rx 0x01]).pending = .rst :: [.rx 0x01] := rfl

/-- At the bound: four bytes held of four, and one more. -/
theorem witness_EveryStepKeepsTheInvariant :
    (mk .awaitingSysex 0x00 0 [0x71, 1, 2, 3] [.rx 4] (.atMost 4)).Inv ∧
    ∃ t, step (mk .awaitingSysex 0x00 0 [0x71, 1, 2, 3] [.rx 4] (.atMost 4)) = .next t :=
  ⟨by decide, _, rfl⟩

theorem witness_EveryStepKeepsTheInvariant_channel :
    (mk .awaitingChannelData 0xF4 0 [0x0D] [.rx 1]).Inv ∧
    ∃ t, step (mk .awaitingChannelData 0xF4 0 [0x0D] [.rx 1]) = .next t := ⟨by decide, _, rfl⟩

theorem witness_InboundOutputs_event :
    ∃ t, step (mk .awaitingChannelData 0x90 5 [0x05] [.rx 0x01]) = .next t ∧ t.out.event ≠ none :=
  ⟨_, rfl, by decide⟩

theorem witness_InboundOutputs_oversized :
    ∃ t, step (mk .awaitingSysex 0x00 0 [0x71] [.rx 0x00] (.atMost 1)) = .next t ∧ t.out.err ≠ none ∧
      t.out.frame = none := ⟨_, rfl, by decide, by decide⟩

theorem witness_InboundOutputs_odd_string :
    ∃ t, step (mk .awaitingSysex 0x00 0 [0x71, 0x48] [.rx 0xF7]) = .next t ∧ t.out.err ≠ none ∧
      t.out.frame ≠ none := ⟨_, rfl, by decide, by decide⟩

theorem witness_FramesComeFrom_idle :
    ∃ t, step (mk .idle 0x00 0 [] [.rx 0xF9]) = .next t ∧ t.out.frame ≠ none ∧
      (mk .idle 0x00 0 [] [.rx 0xF9]).Inv := ⟨_, rfl, by decide, by decide⟩

theorem witness_FramesComeFrom_channel :
    ∃ t, step (mk .awaitingChannelData 0x90 5 [0x05] [.rx 0x01]) = .next t ∧ t.out.frame ≠ none ∧
      (mk .awaitingChannelData 0x90 5 [0x05] [.rx 0x01]).Inv := ⟨_, rfl, by decide, by decide⟩

theorem witness_FramesComeFrom_sysex :
    ∃ t, step (mk .awaitingSysex 0x00 0 [0x00] [.rx 0xF7]) = .next t ∧ t.out.frame ≠ none ∧
      (mk .awaitingSysex 0x00 0 [0x00] [.rx 0xF7]).Inv := ⟨_, rfl, by decide, by decide⟩

theorem witness_PureOperations :
    (mk .awaitingSysex 0x00 0 [0x71] [.request (.decodeString [0x48])]).pending =
      .request (.decodeString [0x48]) :: [] ∧
    (mk .idle 0xE0 3 [] [.request (.decodeString [0x48]), .rst]).pending =
      .request (.decodeString [0x48]) :: [.rst] := ⟨rfl, rfl⟩

theorem witness_CommandRegisters_idle :
    (mk .idle 0xE0 3 [] [.rx 0x95]).pending = .rx 0x95 :: [] ∧
    (mk .idle 0xE0 3 [] [.rx 0x95]).st ≠ .awaitingChannelData := ⟨rfl, by decide⟩

theorem witness_CommandRegisters_sysex :
    (mk .awaitingSysex 0xE0 3 [0x71] [.rx 0xF7]).pending = .rx 0xF7 :: [] ∧
    (mk .awaitingSysex 0xE0 3 [0x71] [.rx 0xF7]).st ≠ .awaitingChannelData := ⟨rfl, by decide⟩

theorem witness_EachStep_byte :
    (mk .idle 0x00 0 [] [.rx 0x42, .rst]).pending = .rx 0x42 :: [.rst] ∧
    ∃ t, step (mk .idle 0x00 0 [] [.rx 0x42, .rst]) = .next t := ⟨rfl, _, rfl⟩

theorem witness_EachStep_request :
    (mk .idle 0x00 0 [] [.request (.encodeValue [16384])]).pending =
      .request (.encodeValue [16384]) :: [] ∧
    ∃ t, step (mk .idle 0x00 0 [] [.request (.encodeValue [16384])]) = .next t := ⟨rfl, _, rfl⟩

theorem witness_EachStep_parameter :
    ∃ t, step (mk .awaitingSysex 0x00 0 [0x71] [.rst] (.atMost 2)) = .next t := ⟨_, rfl⟩

theorem witness_WriteIsTheSteps :
    (mk .awaitingChannelData 0x90 5 [0x05]).pending = [] ∧
    ∃ t, step (mk .awaitingChannelData 0x90 5 [0x05] [.rx 0x01]) = .next t := ⟨rfl, _, rfl⟩

theorem witness_ChunkBoundaries : (mk .awaitingChannelData 0x90 5 [0x05]).pending = [] := rfl

/-! ### Witnesses: bytes in `Idle` -/

theorem witness_ChannelCommandsBeginCollection : (mk .idle 0xF4 0 []).st = .idle := rfl

theorem witness_SetPinModeBeginsCollection : (mk .idle 0x90 15 []).st = .idle := rfl

theorem witness_ImmediateCommandsEmitAtOnce : (mk .idle 0xF4 0 []).st = .idle := rfl

theorem witness_ImmediateCommands_events_F9 :
    (mk .idle 0xF4 0 [] [.rx 0xF9, .rst]).st = .idle ∧
    (mk .idle 0xF4 0 [] [.rx 0xF9, .rst]).pending = .rx 0xF9 :: [.rst] := ⟨rfl, rfl⟩

theorem witness_ImmediateCommands_events_FF :
    (mk .idle 0xF4 0 [] [.rx 0xFF]).st = .idle ∧
    (mk .idle 0xF4 0 [] [.rx 0xFF]).pending = .rx 0xFF :: [] := ⟨rfl, rfl⟩

theorem witness_UnknownBytesAreDropped : (mk .idle 0x90 5 []).st = .idle := rfl

/-- The neighbours of `endSysex` and of a channel base. -/
theorem witness_UnknownBytesAreDropped_step :
    (mk .idle 0x90 5 [] [.rx 0x8F]).pending = .rx 0x8F :: [] ∧
    (0x8F : Byte) ∉ ([0xF0, 0xF4, 0xF7, 0xF9, 0xFF] : List Byte) ∧
    (0x8F : Byte) &&& 0xF0 ∉ ([0x90, 0xC0, 0xD0, 0xE0] : List Byte) ∧
    (0xF8 : Byte) ∉ ([0xF0, 0xF4, 0xF7, 0xF9, 0xFF] : List Byte) ∧
    (0xF8 : Byte) &&& 0xF0 ∉ ([0x90, 0xC0, 0xD0, 0xE0] : List Byte) := by decide

theorem witness_StrayEndMarkerIsDropped : (mk .idle 0x00 0 []).st = .idle := rfl

/-! ### Witnesses: the channel track -/

theorem witness_FirstDataByteIsStored :
    (mk .awaitingChannelData 0x90 5 []).st = .awaitingChannelData ∧
    (mk .awaitingChannelData 0x90 5 []).col.length ≠ 1 := by decide

/-- Outside R15, where the statement rests on log 5. -/
theorem witness_FirstDataByteIsStored_outside_the_invariant :
    (mk .awaitingChannelData 0x90 5 [0x05, 0x01]).st = .awaitingChannelData ∧
    (mk .awaitingChannelData 0x90 5 [0x05, 0x01]).col.length ≠ 1 := by decide

theorem witness_SecondDataByteCompletesTheFrame :
    (mk .awaitingChannelData 0xF4 0 [0xFF] [.rx 0xF7]).st = .awaitingChannelData ∧
    (mk .awaitingChannelData 0xF4 0 [0xFF] [.rx 0xF7]).col = [0xFF] ∧
    (mk .awaitingChannelData 0xF4 0 [0xFF] [.rx 0xF7]).pending = .rx 0xF7 :: [] ∧
    isChannelCommand (mk .awaitingChannelData 0xF4 0 [0xFF] [.rx 0xF7]).cmd :=
  ⟨rfl, rfl, rfl, by decide⟩

/-- One witness a command, at the ends of the channel's range. -/
theorem witness_ValueAndModeFrames_analog :
    (mk .awaitingChannelData 0xE0 15 [0x7F] [.rx 0x7F]).st = .awaitingChannelData ∧
    (mk .awaitingChannelData 0xE0 15 [0x7F] [.rx 0x7F]).col = [0x7F] ∧
    (mk .awaitingChannelData 0xE0 15 [0x7F] [.rx 0x7F]).pending = .rx 0x7F :: [] ∧
    (mk .awaitingChannelData 0xE0 15 [0x7F] [.rx 0x7F]).cmd = 0xE0 := ⟨rfl, rfl, rfl, rfl⟩

theorem witness_ValueAndModeFrames_digital :
    (mk .awaitingChannelData 0x90 0 [0xF0] [.rx 0xFF]).st = .awaitingChannelData ∧
    (mk .awaitingChannelData 0x90 0 [0xF0] [.rx 0xFF]).col = [0xF0] ∧
    (mk .awaitingChannelData 0x90 0 [0xF0] [.rx 0xFF]).pending = .rx 0xFF :: [] ∧
    (mk .awaitingChannelData 0x90 0 [0xF0] [.rx 0xFF]).cmd = 0x90 := ⟨rfl, rfl, rfl, rfl⟩

theorem witness_ValueAndModeFrames_mode :
    (mk .awaitingChannelData 0xF4 0 [0x0D] [.rx 0x0B]).st = .awaitingChannelData ∧
    (mk .awaitingChannelData 0xF4 0 [0x0D] [.rx 0x0B]).col = [0x0D] ∧
    (mk .awaitingChannelData 0xF4 0 [0x0D] [.rx 0x0B]).pending = .rx 0x0B :: [] ∧
    (mk .awaitingChannelData 0xF4 0 [0x0D] [.rx 0x0B]).cmd = 0xF4 := ⟨rfl, rfl, rfl, rfl⟩

theorem witness_ReportFrames_analog :
    (mk .awaitingChannelData 0xC0 15 [0x01] [.rx 0x95]).st = .awaitingChannelData ∧
    (mk .awaitingChannelData 0xC0 15 [0x01] [.rx 0x95]).col = [0x01] ∧
    (mk .awaitingChannelData 0xC0 15 [0x01] [.rx 0x95]).pending = .rx 0x95 :: [] ∧
    (mk .awaitingChannelData 0xC0 15 [0x01] [.rx 0x95]).cmd = 0xC0 := ⟨rfl, rfl, rfl, rfl⟩

theorem witness_ReportFrames_digital :
    (mk .awaitingChannelData 0xD0 0 [0x00] [.rx 0x55]).st = .awaitingChannelData ∧
    (mk .awaitingChannelData 0xD0 0 [0x00] [.rx 0x55]).col = [0x00] ∧
    (mk .awaitingChannelData 0xD0 0 [0x00] [.rx 0x55]).pending = .rx 0x55 :: [] ∧
    (mk .awaitingChannelData 0xD0 0 [0x00] [.rx 0x55]).cmd = 0xD0 := ⟨rfl, rfl, rfl, rfl⟩

theorem witness_NothingInterruptsTheChannelTrack :
    (mk .idle 0xF4 0 []).st = .idle ∧ (mk .idle 0xF4 0 []).pending = [] ∧
    (0xE0 : Byte) ∈ ([0x90, 0xC0, 0xD0, 0xE0] : List Byte) := by decide

/-! ### Witnesses: the sysex track -/

theorem witness_StartSysexOpensAFrame : (mk .idle 0x90 5 []).st = .idle := rfl

theorem witness_SysexData_unbounded :
    (mk .awaitingSysex 0x00 0 [0x71]).st = .awaitingSysex ∧ (0xF0 : Byte) ≠ 0xF7 ∧
    (mk .awaitingSysex 0x00 0 [0x71]).cfg.sysexMax = .unbounded := by decide

/-- The last byte that fits. -/
theorem witness_SysexData_bounded :
    (mk .awaitingSysex 0x00 0 [0x71, 1, 2] [] (.atMost 4)).st = .awaitingSysex ∧ (0xFF : Byte) ≠ 0xF7 ∧
    (mk .awaitingSysex 0x00 0 [0x71, 1, 2] [] (.atMost 4)).cfg.sysexMax = .atMost 4 ∧
    (mk .awaitingSysex 0x00 0 [0x71, 1, 2] [] (.atMost 4)).col.length < 4 := by decide

/-- The first byte that does not. -/
theorem witness_OversizedSysexIsAbandoned :
    (mk .awaitingSysex 0x00 0 [0x71] [] (.atMost 1)).st = .awaitingSysex ∧ (0xF0 : Byte) ≠ 0xF7 ∧
    (mk .awaitingSysex 0x00 0 [0x71] [] (.atMost 1)).cfg.sysexMax = .atMost 1 ∧
    (mk .awaitingSysex 0x00 0 [0x71] [] (.atMost 1)).col.length = 1 := by decide

theorem witness_EndMarkerCompletesTheSysexFrame :
    (mk .awaitingSysex 0x00 0 [0x71] [.rx 0xF7] (.atMost 1)).st = .awaitingSysex ∧
    (mk .awaitingSysex 0x00 0 [0x71] [.rx 0xF7] (.atMost 1)).col = 0x71 :: [] ∧
    (mk .awaitingSysex 0x00 0 [0x71] [.rx 0xF7] (.atMost 1)).pending = .rx 0xF7 :: [] := by decide

theorem witness_EmptySysexIsDropped :
    (mk .awaitingSysex 0x00 0 []).st = .awaitingSysex ∧ (mk .awaitingSysex 0x00 0 []).col = [] := by decide

/-- The bytes fill the buffer exactly. -/
theorem witness_OpenSysexCapturesTheStream :
    (mk .awaitingSysex 0x00 0 [0x71] [] (.atMost 4)).st = .awaitingSysex ∧
    (mk .awaitingSysex 0x00 0 [0x71] [] (.atMost 4)).pending = [] ∧
    (mk .awaitingSysex 0x00 0 [0x71] [] (.atMost 4)).out = Ports.quiet ∧
    (∀ b ∈ ([0xF9, 0xFF, 0xF0] : List Byte), b ≠ 0xF7) ∧
    (match (mk .awaitingSysex 0x00 0 [0x71] [] (.atMost 4)).cfg.sysexMax with
     | .unbounded => True
     | .atMost n => 1 + 3 ≤ n) := ⟨rfl, rfl, rfl, by decide, Nat.le_refl 4⟩

/-! ### Witnesses: the sub-command rows -/

theorem witness_StringDataRow_even :
    (emitted 0x71 [0x48, 0x00]).out.frame = some (.sysex 0x71 [0x48, 0x00]) ∧
    decodeString [0x48, 0x00] = .ok [0x48] := ⟨rfl, rfl⟩

theorem witness_StringDataRow_odd :
    (emitted 0x71 [0x48]).out.frame = some (.sysex 0x71 [0x48]) ∧
    decodeString [0x48] = .error .invalidStringLength := ⟨rfl, rfl⟩

theorem witness_StringMessage_even :
    (mk .awaitingSysex 0x00 0 [0x71] [.rx 0xF7]).st = .awaitingSysex ∧
    (mk .awaitingSysex 0x00 0 [0x71] [.rx 0xF7]).col = 0x71 :: [] ∧
    (mk .awaitingSysex 0x00 0 [0x71] [.rx 0xF7]).pending = .rx 0xF7 :: [] ∧
    ([] : List Byte).length % 2 = 0 := ⟨rfl, rfl, rfl, rfl⟩

theorem witness_StringMessage_odd :
    (mk .awaitingSysex 0x00 0 [0x71, 0x48] [.rx 0xF7]).st = .awaitingSysex ∧
    (mk .awaitingSysex 0x00 0 [0x71, 0x48] [.rx 0xF7]).col = 0x71 :: [0x48] ∧
    (mk .awaitingSysex 0x00 0 [0x71, 0x48] [.rx 0xF7]).pending = .rx 0xF7 :: [] ∧
    ([0x48] : List Byte).length % 2 = 1 := ⟨rfl, rfl, rfl, rfl⟩

theorem witness_ArgumentlessSubcommandRows :
    (emitted 0x79 [0x00, 0x01]).out.frame = some (.sysex 0x79 [0x00, 0x01]) ∧
    (emitted 0x6B []).out.frame = some (.sysex 0x6B []) ∧
    (emitted 0x69 [0xFF]).out.frame = some (.sysex 0x69 [0xFF]) := ⟨rfl, rfl, rfl⟩

/-- The neighbours of the named values among the unknown sub-commands. -/
theorem witness_FramesWithoutAHandlerAreDropped :
    (emitted 0x6A [0x00]).out.frame = some (.sysex 0x6A [0x00]) ∧
    (emitted 0x6C [0x7F]).out.frame = some (.sysex 0x6C [0x7F]) ∧
    (0x6D : Byte) ∉ ([0x69, 0x6A, 0x6B, 0x6C, 0x71, 0x79] : List Byte) ∧
    (emitted 0x6D []).out.frame = some (.sysex 0x6D []) := ⟨rfl, rfl, by decide, rfl⟩

theorem witness_FramesWithoutAHandlerAreDropped_channel :
    (0xF0 : Byte) ∉ ([0x90, 0xC0, 0xD0, 0xE0, 0xF4, 0xF9, 0xFF] : List Byte) ∧
    ((mk .idle 0x00 0 []).emitFrame (.channel 0xF0 15 [])).out.frame = some (.channel 0xF0 15 []) :=
  ⟨by decide, rfl⟩

/-! ### Witnesses: the pure operations -/

theorem witness_Encoders_in_range : ∀ v ∈ ([0, 16383] : List U16), v ≤ 16383 := by
  intro v hv
  simp only [List.mem_cons, List.not_mem_nil, or_false] at hv
  rcases hv with rfl | rfl <;> decide

theorem witness_Encoders_out_of_range : ∃ v ∈ ([1, 16384] : List U16), 16383 < v :=
  ⟨16384, by simp, by decide⟩

theorem witness_DecodeString_odd : ([0x48, 0x00, 0x69] : List Byte).length % 2 = 1 := rfl

theorem witness_DecodeString_even :
    ([0x48, 0x00, 0x69, 0x00] : List Byte).length % 2 = 0 ∧
    ([0x48, 0x00, 0x69, 0x00] : List Byte)[2 * 1]? = some 0x69 ∧
    ([0x48, 0x00, 0x69, 0x00] : List Byte)[2 * 1 + 1]? = some 0x00 := by decide

theorem witness_CodecRoundTrips_value : (16383 : U16) ≤ 16383 := by decide

theorem witness_CodecRoundTrips_text : ∀ c ∈ ([0x48, 16383] : List U16), c ≤ 16383 := by
  intro c hc
  simp only [List.mem_cons, List.not_mem_nil, or_false] at hc
  rcases hc with rfl | rfl <;> decide

theorem witness_AnalogMapping_mapped :
    ([{ analog := some 0, analogMap := some 0 }] : List PinCapability)[0]? =
      some { analog := some 0, analogMap := some 0 } ∧
    ({ analog := some 0, analogMap := some 0 } : PinCapability).analog ≠ none ∧
    ({ analog := some 0, analogMap := some 0 } : PinCapability).analogMap = some 0 := by decide

theorem witness_AnalogMapping_unmapped :
    ([{ analogMap := some 5 }] : List PinCapability)[0]? = some { analogMap := some 5 } ∧
    (({ analogMap := some 5 } : PinCapability).analog = none ∨
      ({ analogMap := some 5 } : PinCapability).analogMap = none) := by decide

/-- `1 + len(payload)` is exactly the bound. -/
theorem witness_LoopBackGivesTheFrameBack :
    (mk .idle 0xE0 3 [] [] (.atMost 3)).st = .idle ∧ (mk .idle 0xE0 3 [] [] (.atMost 3)).pending = [] ∧
    (0x71 : Byte) ≠ 0xF7 ∧ (∀ b ∈ ([0x48, 0x00] : List Byte), b ≠ 0xF7) ∧
    (match (mk .idle 0xE0 3 [] [] (.atMost 3)).cfg.sysexMax with
     | .unbounded => True
     | .atMost n => 1 + 2 ≤ n) := ⟨rfl, rfl, by decide, by decide, Nat.le_refl 3⟩

theorem witness_PinReportsLoopBackWithoutEvents :
    (mk .idle 0xE0 3 []).st = .idle ∧ (mk .idle 0xE0 3 []).pending = [] ∧
    (∀ p ∈ ([{ digital := true, analog := some 10, analogMap := some 0 }, { servo := some 14 }] :
        List PinCapability),
      p.analog ≠ some 0xF7 ∧ p.pwm ≠ some 0xF7 ∧ p.servo ≠ some 0xF7 ∧ p.analogMap ≠ some 0xF7) ∧
    (mk .idle 0xE0 3 []).cfg.sysexMax = .unbounded := ⟨rfl, rfl, by decide, rfl⟩

theorem witness_TakingACondition : Condition.oversizedFrame ≠ .unknownCommand := by decide

/-! ### Witnesses: the frame statements -/

theorem witness_FrameOfRowsThatWriteNoRegister :
    ∃ t, exec .systemReset (mk .idle 0xF4 0 []) = .next t := ⟨_, rfl⟩

theorem witness_FrameOfRowsThatWriteNoRegister_subcommand :
    ∃ t, exec .stringData (emitted 0x71 [0x48]) = .next t := ⟨_, rfl⟩

theorem witness_FrameOfRowsThatWriteNoRegister_request :
    ∃ t, exec (.encodeValue [16384]) (mk .awaitingSysex 0x90 5 [0x71]) = .next t := ⟨_, rfl⟩

theorem witness_FrameOfRowsThatStoreAByte_channel :
    ∃ t, exec (.channelData_first 0xFF) (mk .awaitingChannelData 0x90 5 []) = .next t := ⟨_, rfl⟩

theorem witness_FrameOfRowsThatStoreAByte_sysex :
    ∃ t, exec (.sysexData 0xF0) (mk .awaitingSysex 0x90 5 [0x71] [] (.atMost 2)) = .next t := ⟨_, rfl⟩

theorem witness_FrameOfRowsThatBeginOrEndAFrame_begin :
    ∃ t, exec (.digitalMessage 15) (mk .idle 0xF4 0 []) = .next t := ⟨_, rfl⟩

theorem witness_FrameOfRowsThatBeginOrEndAFrame_end :
    ∃ t, exec (.channelData_second 0x01) (mk .awaitingChannelData 0x90 5 [0x05]) = .next t := ⟨_, rfl⟩

theorem witness_FrameOfRowsThatBeginOrEndAFrame_oversized :
    ∃ t, exec (.sysexData_oversized 0) (mk .awaitingSysex 0x90 5 [0x71] [] (.atMost 1)) = .next t :=
  ⟨_, rfl⟩

end Sys2Proof.Tests
end

section
namespace Sys2Proof.Machine

/-! ### Which conditions are reported, and what taking one drives (R9, R150, R153) -/

/-- R153: `UnknownCommand` is the one condition that is swallowed. -/
@[simp] theorem Condition.reported_iff (c : Condition) : c.reported = true ↔ c ≠ .unknownCommand := by
  cases c <;> decide

@[simp] theorem State.raise_unknownCommand (s : State) : s.raise .unknownCommand = s := s.drop_eq

/-- Settles O56: the reported conditions are those other than `UnknownCommand`, whose `raise` is `drop`. -/
theorem takingAConditionDrivesErrAlone : Obligations.TakingAConditionDrivesErrAlone := by
  unfold Obligations.TakingAConditionDrivesErrAlone
  refine ⟨?reported, ?swallowed, ?numbers⟩
  case reported =>
    intro s c hc
    exact s.raise_reported (c.reported_iff.mpr hc)
  case swallowed =>
    exact State.raise_unknownCommand
  case numbers =>
    exact ⟨rfl, rfl, rfl, rfl, rfl⟩

end Sys2Proof.Machine
end

section
namespace Sys2Proof.Machine

/-! ### The state invariants, by the value of `st` (R15) -/

theorem State.Inv.of_idle {t : State} (hst : t.st = .idle) (hcol : t.col = []) : t.Inv :=
  ⟨fun _ => hcol, by simp [hst], by simp [hst]⟩

theorem State.Inv.of_channelData {t : State} (hst : t.st = .awaitingChannelData)
    (hlen : t.col.length ≤ 1) (hcmd : isChannelCommand t.cmd)
    (hchan : t.cmd = Wire.setPinMode → t.chan = 0) : t.Inv :=
  ⟨by simp [hst], fun _ => ⟨hlen, hcmd, hchan⟩, by simp [hst]⟩

theorem State.Inv.of_sysex {t : State} (hst : t.st = .awaitingSysex)
    (hwf : Memory.wf t.cfg.sysexMax t.col = true) : t.Inv :=
  ⟨by simp [hst], by simp [hst], fun _ => hwf⟩

/-- R15 for the step of a byte, by the eleven ways of `runByte_cases`. -/
theorem runByte_keeps_inv {b : Byte} {s t : State} (ho : s.out = Ports.quiet) (hinv : s.Inv)
    (hrun : runByte b s = .next t) : t.Inv := by
  obtain ⟨hidle, hchannel, -⟩ := hinv
  obtain ⟨t', ht', hcases⟩ := runByte_cases b ho
  obtain rfl : t' = t := by simpa [ht'] using hrun
  rcases hcases with ⟨-, c, ch, hc, hch, rfl⟩ | ⟨hs, -, rfl⟩ | ⟨hs, -, rfl⟩ | ⟨hs, rfl⟩ | ⟨-, rfl⟩ |
    ⟨hs, hlen, rfl⟩ | ⟨-, d0, -, rfl⟩ | ⟨hs, -, habove, rfl⟩ | ⟨-, -, -, rfl⟩ | ⟨-, -, hcol, rfl⟩ |
    ⟨-, -, sub, data, -, rfl⟩
  · exact .of_channelData rfl (Nat.zero_le 1) hc hch
  · exact .of_idle hs (hidle hs)
  · exact .of_idle hs (hidle hs)
  · exact .of_idle hs (hidle hs)
  · exact .of_sysex rfl (Memory.wf_nil _)
  · obtain ⟨hle, hcmd, hchan⟩ := hchannel hs
    have hlen' : (s.append b).col.length ≤ 1 := by
      rw [State.append_col, List.length_append, List.length_singleton]
      omega
    exact .of_channelData hs hlen' hcmd hchan
  · exact .of_idle (react_st _ _) (react_col _ _)
  · exact .of_sysex hs (append_memory_wf b habove)
  · exact .of_idle rfl rfl
  · exact .of_idle rfl hcol
  · exact .of_idle (react_st _ _) (react_col _ _)

/-- A request's step takes the request and drives the ports; nothing else changes (R73). -/
theorem step_request_next {s : State} {r : Request} {rest : List Input}
    (h : s.pending = .request r :: rest) :
    ∃ p, step s = .next { s with pending := rest, out := p } := by
  obtain ⟨f, -, -, hexec⟩ := exec_decodeRequest r
  exact ⟨f Ports.quiet, by rw [step_request h, hexec]; rfl⟩

/-- Settles O14: by what is offered; a byte is `runByte_keeps_inv`, a reset ends in `Idle`, and a request or
nothing leaves the four registers as they are. -/
theorem everyStepKeepsTheInvariant : Obligations.EveryStepKeepsTheInvariant := by
  unfold Obligations.EveryStepKeepsTheInvariant
  intro s t hinv hstep
  cases hp : s.pending with
  | nil =>
    obtain rfl : s.take [] = t := by simpa [step_nil hp] using hstep
    exact hinv
  | cons input rest =>
    cases input with
    | rst =>
      obtain rfl : (s.take rest).applyReset = t := by simpa [step_rst hp] using hstep
      exact .of_idle rfl rfl
    | rx b => exact runByte_keeps_inv (s := s.accept rest) rfl hinv (step_rx hp ▸ hstep)
    | request r =>
      obtain ⟨p, hnext⟩ := step_request_next hp
      obtain rfl : { s with pending := rest, out := p } = t := by simpa [hnext] using hstep
      exact hinv

/-- Settles O15: the reset state is `Idle` with an empty buffer, and no bound is a bound R5 admits. -/
theorem resetMeetsTheInvariant : Obligations.ResetMeetsTheInvariant := by
  unfold Obligations.ResetMeetsTheInvariant
  exact ⟨.of_idle rfl rfl, trivial⟩

/-- Settles O12: the fields of `State.reset`, as they are written there. -/
theorem resetStateValues : Obligations.ResetStateValues := by
  unfold Obligations.ResetStateValues
  exact ⟨rfl, rfl, rfl, rfl, rfl, rfl, rfl, rfl⟩

/-! ### What every step answers, and what none changes (R23, R24, R95, R178) -/

/-- Settles O13: by what is offered; for a byte, `runByte_cases` covers every state. -/
theorem stepAlwaysAnswersNext : Obligations.StepAlwaysAnswersNext := by
  unfold Obligations.StepAlwaysAnswersNext
  intro s
  cases hp : s.pending with
  | nil => exact ⟨_, step_nil hp⟩
  | cons input rest =>
    cases input with
    | rst => exact ⟨_, step_rst hp⟩
    | rx b =>
      obtain ⟨t, ht, -⟩ := runByte_cases b (s := s.accept rest) rfl
      exact ⟨t, by rw [step_rx hp, ht]⟩
    | request r =>
      obtain ⟨p, hnext⟩ := step_request_next hp
      exact ⟨_, hnext⟩

/-- No way a byte's step can go writes the ghost counter, what is offered, or the parameter. -/
theorem runByte_bookkeeping {b : Byte} {s t : State} (ho : s.out = Ports.quiet)
    (hrun : runByte b s = .next t) :
    t.pos = s.pos ∧ t.pending = s.pending ∧ t.cfg = s.cfg := by
  obtain ⟨t', ht', hcases⟩ := runByte_cases b ho
  obtain rfl : t' = t := by simpa [ht'] using hrun
  rcases hcases with ⟨-, c, ch, -, -, rfl⟩ | ⟨-, -, rfl⟩ | ⟨-, -, rfl⟩ | ⟨-, rfl⟩ | ⟨-, rfl⟩ |
    ⟨-, -, rfl⟩ | ⟨-, d0, -, rfl⟩ | ⟨-, -, -, rfl⟩ | ⟨-, -, -, rfl⟩ | ⟨-, -, -, rfl⟩ |
    ⟨-, -, sub, data, -, rfl⟩
  all_goals simp

/-- R24: the byte's step counts it and takes it, and keeps the parameter. -/
theorem step_rx_bookkeeping {s t : State} {b : Byte} {rest : List Input}
    (h : s.pending = .rx b :: rest) (hstep : step s = .next t) :
    t.pos = s.pos + 1 ∧ t.pending = rest ∧ t.cfg = s.cfg :=
  runByte_bookkeeping (s := s.accept rest) rfl (step_rx h ▸ hstep)

theorem step_request_bookkeeping {s t : State} {r : Request} {rest : List Input}
    (h : s.pending = .request r :: rest) (hstep : step s = .next t) :
    t.pos = s.pos ∧ t.pending = rest ∧ t.cfg = s.cfg := by
  obtain ⟨p, hnext⟩ := step_request_next h
  obtain rfl : { s with pending := rest, out := p } = t := by simpa [hnext] using hstep
  exact ⟨rfl, rfl, rfl⟩

/-- R178: no step changes `SYSEX_MAX`. -/
theorem step_cfg {s t : State} (hstep : step s = .next t) : t.cfg = s.cfg := by
  cases hp : s.pending with
  | nil =>
    obtain rfl : s.take [] = t := by simpa [step_nil hp] using hstep
    rfl
  | cons input rest =>
    cases input with
    | rst =>
      obtain rfl : (s.take rest).applyReset = t := by simpa [step_rst hp] using hstep
      rfl
    | rx b => exact (step_rx_bookkeeping hp hstep).2.2
    | request r => exact (step_request_bookkeeping hp hstep).2.2

/-- Settles O21: the bookkeeping of a byte's and of a request's step, and `step_cfg`. -/
theorem eachStepTakesOneInputAndKeepsTheParameter :
    Obligations.EachStepTakesOneInputAndKeepsTheParameter := by
  unfold Obligations.EachStepTakesOneInputAndKeepsTheParameter
  refine ⟨?byte, ?request, ?parameter⟩
  case byte =>
    intro s t b rest h hstep
    obtain ⟨hpos, hpending, -⟩ := step_rx_bookkeeping h hstep
    exact ⟨hpos, hpending⟩
  case request =>
    intro s t r rest h hstep
    obtain ⟨hpos, hpending, -⟩ := step_request_bookkeeping h hstep
    exact ⟨hpos, hpending⟩
  case parameter =>
    intro s t hstep
    exact step_cfg hstep

/-! ### What a step does not read: the ports of an earlier step (R25) -/

/-- `s` with other transactions held from the last step. -/
def State.withOut (s : State) (p : Ports) : State := { s with out := p }

/-- Settles O19: `take` and `accept` put the ports to quiet before anything else runs. -/
theorem earlierOutputsAreNotRemembered : Obligations.EarlierOutputsAreNotRemembered := by
  unfold Obligations.EarlierOutputsAreNotRemembered
  intro s p
  change step (s.withOut p) = step s
  cases hp : s.pending with
  | nil => exact (step_nil (s := s.withOut p) hp).trans (step_nil hp).symm
  | cons input rest =>
    cases input with
    | rst => exact (step_rst (s := s.withOut p) hp).trans (step_rst hp).symm
    | rx b => exact (step_rx (s := s.withOut p) hp).trans (step_rx hp).symm
    | request r => exact (step_request (s := s.withOut p) hp).trans (step_request hp).symm

/-! ### What a step does not read: `cmd` and `chan`, outside the channel track (R12) -/

/-- `s` with other command registers. -/
def State.withCommand (s : State) (c : Byte) (ch : U4) : State := { s with cmd := c, chan := ch }

/-- `u` is `t` where the command registers may differ: on the channel track not at all, elsewhere in those
two registers alone, which are `c` and `ch`. -/
def AgreeUpToCommand (c : Byte) (ch : U4) (t u : State) : Prop :=
  u = t ∨ (t.st ≠ .awaitingChannelData ∧ u = t.withCommand c ch)

theorem AgreeUpToCommand.fields {c : Byte} {ch : U4} {t u : State} (h : AgreeUpToCommand c ch t u) :
    u.out = t.out ∧ u.st = t.st ∧ u.col = t.col ∧
      (t.st = .awaitingChannelData → u.cmd = t.cmd ∧ u.chan = t.chan) := by
  rcases h with rfl | ⟨hst, rfl⟩
  · exact ⟨rfl, rfl, rfl, fun _ => ⟨rfl, rfl⟩⟩
  · exact ⟨rfl, rfl, rfl, fun h => absurd h hst⟩

theorem react_withCommand (s : State) (r : Reaction) (c : Byte) (ch : U4) :
    react (s.withCommand c ch) r = (react s r).withCommand c ch := by
  cases r with
  | nothing => rfl
  | event e => rfl
  | error cond => cases cond <;> rfl

/-- The handler table of R115 as one function of what is on the `frame` port. -/
def frameReaction : Option Frame → Reaction
  | none => .nothing
  | some (.channel c ch data) => channelReaction c ch data
  | some (.sysex sub data) => sysexReaction sub data

/-- The attached decoder reads the `frame` port and no register (R131). -/
theorem attachedDecoder_eq_react (s : State) :
    attachedDecoder s = .next (react s (frameReaction s.out.frame)) := by
  cases h : s.out.frame with
  | none => exact attachedDecoder_none h
  | some f =>
    cases f with
    | channel c ch data => exact attachedDecoder_channel h
    | sysex sub data => exact attachedDecoder_sysex h

theorem attachedDecoder_agrees {c : Byte} {ch : U4} {t u : State} (h : AgreeUpToCommand c ch t u) :
    ∃ t' u', attachedDecoder t = .next t' ∧ attachedDecoder u = .next u' ∧
      AgreeUpToCommand c ch t' u' := by
  refine ⟨_, _, attachedDecoder_eq_react t, attachedDecoder_eq_react u, ?_⟩
  rcases h with rfl | ⟨hst, rfl⟩
  · exact .inl rfl
  · exact .inr ⟨by simpa using hst, react_withCommand t _ c ch⟩

/-- What a row of the space `idle` makes of the state, before the attached decoder (R81 to R89, R100). -/
def idleEffect (i : Instr) (s : State) : State :=
  match i with
  | .digitalMessage ch => s.beginChannel Wire.digitalMessage ch
  | .reportAnalog ch => s.beginChannel Wire.reportAnalog ch
  | .reportDigital ch => s.beginChannel Wire.reportDigital ch
  | .analogMessage ch => s.beginChannel Wire.analogMessage ch
  | .setPinMode => s.beginChannel Wire.setPinMode 0
  | .startSysex => s.clearBuffer.goto .awaitingSysex
  | .reportVersion => s.emitFrame (.channel Wire.reportVersion 0 [])
  | .systemReset => s.emitFrame (.channel Wire.systemReset 0 [])
  | _ => s

/-- Every row of the space `idle` is its effect, guarded by the space. -/
theorem exec_eq_idleEffect {i : Instr} (hi : Space.idle.selects i = true) (s : State) :
    exec i s = whenSelected i s (idleEffect i s) := by
  revert hi
  cases i <;> simp [Space.selects] <;> rfl

theorem runByte_eq_idleEffect (b : Byte) {s : State} (hs : s.st = .idle) :
    runByte b s = attachedDecoder (idleEffect (decodeIdle b) s) := by
  have hsp := s.space_idle hs
  have hsel := selects_decodeIdle b
  rw [runByte_eq b (by rw [hsp]; exact decode_idle b), exec_eq_idleEffect hsel,
    whenSelected_of (by rw [hsp]; exact hsel), andThen_next]

/-- The five rows that go to the channel track write both registers; the others write neither. -/
theorem idleEffect_agrees (i : Instr) {s : State} (hs : s.st = .idle) (c : Byte) (ch : U4) :
    AgreeUpToCommand c ch (idleEffect i s) (idleEffect i (s.withCommand c ch)) := by
  cases i
  case digitalMessage | reportAnalog | reportDigital | analogMessage | setPinMode => exact .inl rfl
  all_goals exact .inr ⟨by simp [idleEffect, hs], rfl⟩

theorem runByte_idle_agrees (b : Byte) {s : State} (hs : s.st = .idle) (c : Byte) (ch : U4) :
    ∃ t u, runByte b s = .next t ∧ runByte b (s.withCommand c ch) = .next u ∧
      AgreeUpToCommand c ch t u := by
  rw [runByte_eq_idleEffect b hs, runByte_eq_idleEffect b (s := s.withCommand c ch) hs]
  exact attachedDecoder_agrees (idleEffect_agrees _ hs c ch)

/-- On the sysex track no row reads or writes the registers (R101 to R104). -/
theorem runByte_sysex_agrees (b : Byte) {s : State} (hs : s.st = .awaitingSysex)
    (ho : s.out.frame = none) (c : Byte) (ch : U4) :
    ∃ t u, runByte b s = .next t ∧ runByte b (s.withCommand c ch) = .next u ∧
      AgreeUpToCommand c ch t u := by
  by_cases hb : b = Wire.endSysex
  · subst hb
    cases hc : s.col with
    | nil =>
      exact ⟨_, _, runByte_endSysex_empty hs hc ho,
        runByte_endSysex_empty (s := s.withCommand c ch) hs hc ho, .inr ⟨by simp, rfl⟩⟩
    | cons sub data =>
      exact ⟨_, _, runByte_endSysex_complete hs hc,
        runByte_endSysex_complete (s := s.withCommand c ch) hs hc,
        .inr ⟨by simp, react_withCommand (s.emitFrame (.sysex sub data)).backToIdle _ c ch⟩⟩
  · cases hl : s.cfg.sysexMax.above s.col.length with
    | true =>
      exact ⟨_, _, runByte_sysexData b hs hb hl ho,
        runByte_sysexData b (s := s.withCommand c ch) hs hb hl ho, .inr ⟨by simp [hs], rfl⟩⟩
    | false =>
      exact ⟨_, _, runByte_oversized b hs hb hl ho,
        runByte_oversized b (s := s.withCommand c ch) hs hb hl ho, .inr ⟨by simp, rfl⟩⟩

/-- Settles O20: outside the channel track a byte's step keeps agreement up to `cmd` and `chan`. -/
theorem commandRegistersAreUnreadOutsideTheChannelTrack :
    Obligations.CommandRegistersAreUnreadOutsideTheChannelTrack := by
  unfold Obligations.CommandRegistersAreUnreadOutsideTheChannelTrack
  intro s c ch b rest hp hst
  have hagree : ∃ t u, runByte b (s.accept rest) = .next t ∧
      runByte b ((s.accept rest).withCommand c ch) = .next u ∧ AgreeUpToCommand c ch t u := by
    cases hs : s.st with
    | idle => exact runByte_idle_agrees b (s := s.accept rest) hs c ch
    | awaitingChannelData => exact absurd hs hst
    | awaitingSysex => exact runByte_sysex_agrees b (s := s.accept rest) hs rfl c ch
  obtain ⟨t, u, ht, hu, h⟩ := hagree
  refine ⟨t, u, ?_, ?_, h.fields⟩
  · rw [step_rx hp, ht]
  · exact (step_rx (s := s.withCommand c ch) hp).trans hu

end Sys2Proof.Machine
end

section
namespace Sys2Proof.Machine

/-! ### Rows that write the ports alone (R41 item 4, R86 to R89, R115, R131) -/

/-- A row of the space `idle` that answers has made its effect of the state. -/
theorem exec_idle_next {i : Instr} {s t : State} (hi : Space.idle.selects i = true)
    (h : exec i s = .next t) : t = idleEffect i s := by
  rw [exec_eq_idleEffect hi, whenSelected_next_iff] at h
  exact h.2

/-- Every row of the space `subcommand` is a handler run on the emitted frame. -/
theorem exec_eq_onSysexFrame {i : Instr} (hi : Space.subcommand.selects i = true) (s : State) :
    ∃ handler, exec i s = onSysexFrame i s handler := by
  cases i
  case analogMappingQuery | analogMappingResponse | capabilityQuery | capabilityResponse | stringData
      | reportFirmware | unknownSubcommand =>
    exact ⟨_, rfl⟩
  all_goals exact absurd hi Bool.false_ne_true

theorem exec_subcommand_next {i : Instr} {s t : State} (hi : Space.subcommand.selects i = true)
    (h : exec i s = .next t) : ∃ p, t = s.withOut p := by
  obtain ⟨handler, heq⟩ := exec_eq_onSysexFrame hi s
  rw [heq, onSysexFrame_next_iff] at h
  obtain ⟨sub, data, -, -, rfl⟩ := h
  exact ⟨_, react_eq s (handler data)⟩

/-- A request's row drives the ports alone (R73). -/
theorem exec_decodeRequest_next {r : Request} {s t : State} (h : exec (decodeRequest r) s = .next t) :
    ∃ p, t = s.withOut p := by
  obtain ⟨f, -, -, hexec⟩ := exec_decodeRequest r
  rw [hexec] at h
  exact ⟨f s.out, (Host.Outcome.next.inj h).symm⟩

/-- Settles O57: by the row's space. An `idle` row here emits a frame or does nothing, a sub-command row
reacts to the frame, and a port row answers a request; each differs from `s` in the ports alone. -/
theorem frameOfRowsThatWriteNoRegister : Obligations.FrameOfRowsThatWriteNoRegister := by
  unfold Obligations.FrameOfRowsThatWriteNoRegister
  intro i s t hi h
  have hports : ∃ p, t = s.withOut p := by
    cases i
    case reportVersion | systemReset | endSysex_stray | unknown_00_7F | unknown_80_8F | unknown_A0_BF
        | unknown_F1 | unknown_F2 | unknown_F3 | unknown_F5 | unknown_F6 | unknown_F8 | unknown_FA
        | unknown_FB | unknown_FC | unknown_FD | unknown_FE =>
      exact ⟨_, exec_idle_next rfl h⟩
    case analogMappingQuery | analogMappingResponse | capabilityQuery | capabilityResponse | stringData
        | reportFirmware | unknownSubcommand =>
      exact exec_subcommand_next rfl h
    case decodeValue bytes => exact exec_decodeRequest_next (r := .decodeValue bytes) h
    case decodeString bytes => exact exec_decodeRequest_next (r := .decodeString bytes) h
    case encodeString text => exact exec_decodeRequest_next (r := .encodeString text) h
    case encodeValue values => exact exec_decodeRequest_next (r := .encodeValue values) h
    case firmataVersion => exact exec_decodeRequest_next (r := .firmataVersion) h
    case firmwareVersion => exact exec_decodeRequest_next (r := .firmwareVersion) h
    case capabilityResponse_build pins => exact exec_decodeRequest_next (r := .capabilityResponse pins) h
    case analogMappingResponse_build pins =>
      exact exec_decodeRequest_next (r := .analogMappingResponse pins) h
    case sysexWrap sub payload => exact exec_decodeRequest_next (r := .sysexWrap sub payload) h
    all_goals exact hi.elim
  obtain ⟨p, rfl⟩ := hports
  exact ⟨rfl, rfl, rfl, fun _ => rfl, rfl, rfl, rfl⟩

end Sys2Proof.Machine
end

section
namespace Sys2Proof

/-! ### Encoding what a code decodes to (R53, R56, R62) -/

theorem encode_decodeIdle : ∀ b : Byte, encode (decodeIdle b) = .byte b := by decide

theorem encode_decodeSubcommand : ∀ b : Byte, encode (decodeSubcommand b) = .byte b := by decide

theorem encode_decodeChannelData (n : Nat) (b : Byte) : encode (decodeChannelData n b) = .byte b := by
  unfold decodeChannelData
  split <;> rfl

theorem encode_decodeSysex (n : Nat) (m : Limit) (b : Byte) : encode (decodeSysex n m b) = .byte b := by
  unfold decodeSysex
  split
  · next hend =>
    subst hend
    split <;> rfl
  · split <;> rfl

theorem encode_decodeRequest (r : Request) : encode (decodeRequest r) = .request r := by
  cases r <;> rfl

/-! ### What a code decodes to is well-formed -/

theorem wf_decodeIdle : ∀ b : Byte, (decodeIdle b).wf = true := by decide

theorem wf_decodeChannelData (n : Nat) (b : Byte) : (decodeChannelData n b).wf = true := by
  unfold decodeChannelData
  split <;> rfl

theorem wf_decodeSysex (n : Nat) (m : Limit) (b : Byte) : (decodeSysex n m b).wf = true := by
  unfold decodeSysex
  split
  · split <;> rfl
  · next hdata => split <;> exact bne_iff_ne.mpr hdata

/-- R56: `0xF7` is the one byte in the sub-command place that is no sub-command. -/
theorem wf_decodeSubcommand : ∀ b : Byte, b ≠ Wire.endSysex → (decodeSubcommand b).wf = true := by
  decide

theorem wf_decodeRequest (r : Request) : (decodeRequest r).wf = true := by
  cases r <;> rfl

/-- Settles O2: space by space; a code of the other kind is rejected. -/
theorem encodeUndoesDecode : Obligations.EncodeUndoesDecode := by
  unfold Obligations.EncodeUndoesDecode
  intro sp c i hdec
  cases c with
  | byte b =>
    cases sp with
    | idle =>
      obtain rfl := Except.ok.inj hdec
      exact ⟨encode_decodeIdle b, selects_decodeIdle b, fun _ => wf_decodeIdle b⟩
    | channelData n =>
      obtain rfl := Except.ok.inj hdec
      exact ⟨encode_decodeChannelData n b, selects_decodeChannelData n b,
        fun _ => wf_decodeChannelData n b⟩
    | sysex n m =>
      obtain rfl := Except.ok.inj hdec
      exact ⟨encode_decodeSysex n m b, selects_decodeSysex n m b, fun _ => wf_decodeSysex n m b⟩
    | subcommand =>
      obtain rfl := Except.ok.inj hdec
      refine ⟨encode_decodeSubcommand b, selects_decodeSubcommand b, fun hmarker => ?_⟩
      exact wf_decodeSubcommand b fun hb => hmarker rfl (congrArg Code.byte hb)
    | port => nomatch hdec
  | request r =>
    cases sp with
    | port =>
      obtain rfl := Except.ok.inj hdec
      exact ⟨encode_decodeRequest r, selects_decodeRequest r, fun _ => wf_decodeRequest r⟩
    | idle | channelData | sysex | subcommand => nomatch hdec

/-! ### Decoding a row's code, space by space (R45, R46, R53, R56, R61) -/

/-- The four channel commands, on every channel (R46). -/
theorem decodeIdle_commandByte : ∀ ch : U4,
    decodeIdle (commandByte Wire.digitalMessage ch) = .digitalMessage ch ∧
    decodeIdle (commandByte Wire.reportAnalog ch) = .reportAnalog ch ∧
    decodeIdle (commandByte Wire.reportDigital ch) = .reportDigital ch ∧
    decodeIdle (commandByte Wire.analogMessage ch) = .analogMessage ch := by decide

theorem decodeIdle_of_7bit : ∀ x : BitVec 7, decodeIdle (x.setWidth 8) = .unknown_00_7F x := by decide

theorem decodeIdle_of_high_8 : ∀ x : BitVec 4, decodeIdle (0x80 ||| x.setWidth 8) = .unknown_80_8F x := by
  decide

theorem decodeIdle_of_high_A_or_B : ∀ x : BitVec 5,
    decodeIdle (0xA0 ||| x.setWidth 8) = .unknown_A0_BF x := by decide

theorem decode_idle_encode {i : Instr} (hi : Space.idle.selects i = true) :
    decode .idle (encode i) = .ok i := by
  cases i
  case digitalMessage ch =>
    obtain ⟨hdec, -, -, -⟩ := decodeIdle_commandByte ch
    exact congrArg Except.ok hdec
  case reportAnalog ch =>
    obtain ⟨-, hdec, -, -⟩ := decodeIdle_commandByte ch
    exact congrArg Except.ok hdec
  case reportDigital ch =>
    obtain ⟨-, -, hdec, -⟩ := decodeIdle_commandByte ch
    exact congrArg Except.ok hdec
  case analogMessage ch =>
    obtain ⟨-, -, -, hdec⟩ := decodeIdle_commandByte ch
    exact congrArg Except.ok hdec
  case unknown_00_7F x => exact congrArg Except.ok (decodeIdle_of_7bit x)
  case unknown_80_8F x => exact congrArg Except.ok (decodeIdle_of_high_8 x)
  case unknown_A0_BF x => exact congrArg Except.ok (decodeIdle_of_high_A_or_B x)
  case startSysex | setPinMode | endSysex_stray | reportVersion | systemReset | unknown_F1 | unknown_F2
      | unknown_F3 | unknown_F5 | unknown_F6 | unknown_F8 | unknown_FA | unknown_FB | unknown_FC
      | unknown_FD | unknown_FE =>
    rfl
  all_goals exact absurd hi Bool.false_ne_true

theorem decode_channelData_encode {n : Nat} {i : Instr} (hi : (Space.channelData n).selects i = true) :
    decode (.channelData n) (encode i) = .ok i := by
  cases i
  case channelData_first d =>
    have hn : n ≠ 1 := bne_iff_ne.mp hi
    simp [encode, decodeChannelData, hn]
  case channelData_second d =>
    have hn : n = 1 := beq_iff_eq.mp hi
    simp [encode, decodeChannelData, hn]
  all_goals exact absurd hi Bool.false_ne_true

theorem decode_sysex_encode {n : Nat} {m : Limit} {i : Instr} (hi : (Space.sysex n m).selects i = true) :
    decode (.sysex n m) (encode i) = .ok i := by
  cases i
  case endSysex_complete =>
    have hn : n ≠ 0 := bne_iff_ne.mp hi
    simp [encode, decodeSysex, hn]
  case endSysex_empty =>
    have hn : n = 0 := beq_iff_eq.mp hi
    simp [encode, decodeSysex, hn]
  case sysexData d =>
    obtain ⟨hd, habove⟩ : d ≠ Wire.endSysex ∧ m.above n = true := by simpa [Space.selects] using hi
    simp only [encode, decode_sysex, decodeSysex, if_neg hd, if_pos habove]
  case sysexData_oversized d =>
    obtain ⟨hd, hfull⟩ : d ≠ Wire.endSysex ∧ m.above n = false := by simpa [Space.selects] using hi
    simp only [encode, decode_sysex, decodeSysex, if_neg hd, hfull, Bool.false_eq_true, if_false]
  all_goals exact absurd hi Bool.false_ne_true

/-- R56: a value that is none of the six named ones is the catch-all row. -/
theorem decodeSubcommand_of_unnamed : ∀ x : Byte, namedSubcommands.contains x = false →
    decodeSubcommand x = .unknownSubcommand x := by decide

theorem decode_subcommand_encode {i : Instr} (hwf : i.wf = true) (hi : Space.subcommand.selects i = true) :
    decode .subcommand (encode i) = .ok i := by
  cases i
  case unknownSubcommand x =>
    have hx : namedSubcommands.contains x = false := by
      obtain ⟨-, hx⟩ := Bool.and_eq_true_iff.mp hwf
      exact Bool.eq_false_of_not_eq_true' hx
    exact congrArg Except.ok (decodeSubcommand_of_unnamed x hx)
  case analogMappingQuery | analogMappingResponse | capabilityQuery | capabilityResponse | stringData
      | reportFirmware =>
    rfl
  all_goals exact absurd hi Bool.false_ne_true

theorem decode_port_encode {i : Instr} (hi : Space.port.selects i = true) :
    decode .port (encode i) = .ok i := by
  cases i
  case decodeValue | decodeString | encodeString | encodeValue | firmataVersion | firmwareVersion
      | capabilityResponse_build | analogMappingResponse_build | sysexWrap =>
    rfl
  all_goals exact absurd hi Bool.false_ne_true

/-- Settles O1: by the space. Only the sub-command place needs well-formedness, which keeps the catch-all row
off the six named values. -/
theorem decodeUndoesEncode : Obligations.DecodeUndoesEncode := by
  unfold Obligations.DecodeUndoesEncode
  intro sp i hwf hi
  cases sp with
  | idle => exact decode_idle_encode hi
  | channelData n => exact decode_channelData_encode hi
  | sysex n m => exact decode_sysex_encode hi
  | subcommand => exact decode_subcommand_encode hwf hi
  | port => exact decode_port_encode hi

/-- Settles O3: the decoder, evaluated at the twenty-four words. -/
theorem writtenOutWordsDecode : Obligations.WrittenOutWordsDecode := by
  unfold Obligations.WrittenOutWordsDecode
  decide

/-! ### The byte map of `Idle` (R53) -/

/-- The two round trips: a byte decodes to a row of the space `idle` exactly where it is the row's code. -/
theorem decodeIdle_eq_iff {b c : Byte} {i : Instr} (hi : Space.idle.selects i = true)
    (henc : encode i = .byte c) : decodeIdle b = i ↔ b = c := by
  constructor
  · rintro rfl
    exact Code.byte.inj ((encode_decodeIdle b).symm.trans henc)
  · rintro rfl
    have hdec := decode_idle_encode hi
    rw [henc] at hdec
    exact Except.ok.inj hdec

/-- A byte is the channel command of its own low nibble exactly within the command's sixteen values (R46). -/
theorem eq_commandByte_chanOf_iff : ∀ b : Byte,
    (b = commandByte Wire.digitalMessage (chanOf b) ↔ 0x90 ≤ b ∧ b ≤ 0x9F) ∧
    (b = commandByte Wire.reportAnalog (chanOf b) ↔ 0xC0 ≤ b ∧ b ≤ 0xCF) ∧
    (b = commandByte Wire.reportDigital (chanOf b) ↔ 0xD0 ≤ b ∧ b ≤ 0xDF) ∧
    (b = commandByte Wire.analogMessage (chanOf b) ↔ 0xE0 ≤ b ∧ b ≤ 0xEF) := by decide

/-- A byte is the unknown value of its own low bits exactly within the row's range (R53, R62). -/
theorem eq_unknownCode_iff : ∀ b : Byte,
    (b = (b.setWidth 7).setWidth 8 ↔ b ≤ 0x7F) ∧
    (b = 0x80 ||| (b.setWidth 4).setWidth 8 ↔ 0x80 ≤ b ∧ b ≤ 0x8F) ∧
    (b = 0xA0 ||| (b.setWidth 5).setWidth 8 ↔ 0xA0 ≤ b ∧ b ≤ 0xBF) := by decide

/-- Settles O4: a row without operands has one code, and the codes of a row with an operand are its range. -/
theorem idleByteMapIsTheTable : Obligations.IdleByteMapIsTheTable := by
  unfold Obligations.IdleByteMapIsTheTable
  intro b
  obtain ⟨hdigital, hreportAnalog, hreportDigital, hanalog⟩ := eq_commandByte_chanOf_iff b
  obtain ⟨h7bit, h8, hAorB⟩ := eq_unknownCode_iff b
  have hcode : ∀ {c : Byte} {i : Instr}, Space.idle.selects i = true → encode i = .byte c →
      (decodeIdle b = i ↔ b = c) := decodeIdle_eq_iff
  exact ⟨hcode rfl rfl, hcode rfl rfl, hcode rfl rfl, hcode rfl rfl, hcode rfl rfl,
    (hcode rfl rfl).trans hdigital, (hcode rfl rfl).trans hreportAnalog,
    (hcode rfl rfl).trans hreportDigital, (hcode rfl rfl).trans hanalog,
    (hcode rfl rfl).trans h7bit, (hcode rfl rfl).trans h8, (hcode rfl rfl).trans hAorB,
    hcode rfl rfl, hcode rfl rfl, hcode rfl rfl, hcode rfl rfl, hcode rfl rfl, hcode rfl rfl,
    hcode rfl rfl, hcode rfl rfl, hcode rfl rfl, hcode rfl rfl, hcode rfl rfl⟩

end Sys2Proof
end

section
namespace Sys2Proof.Machine

/-! ### Decoding in the space of a state (R57, R95) -/

theorem decode_space_byte (s : State) (b : Byte) :
    ∃ i, decode s.space (.byte b) = .ok i ∧ s.space.selects i = true := by
  cases hst : s.st with
  | idle =>
    rw [s.space_idle hst]
    exact ⟨_, decode_idle b, selects_decodeIdle b⟩
  | awaitingChannelData =>
    rw [s.space_channelData hst]
    exact ⟨_, decode_channelData _ b, selects_decodeChannelData _ b⟩
  | awaitingSysex =>
    rw [s.space_sysex hst]
    exact ⟨_, decode_sysex _ _ b, selects_decodeSysex _ _ b⟩

theorem decode_space_request (s : State) (r : Request) :
    decode s.space (.request r) = .error .requestForByte := by
  cases hst : s.st with
  | idle => rw [s.space_idle hst]; rfl
  | awaitingChannelData => rw [s.space_channelData hst]; rfl
  | awaitingSysex => rw [s.space_sysex hst]; rfl

/-- Settles O5: by the state's space for `rx`; the port decodes every request and no byte. -/
theorem everyByteDecodesInEveryState : Obligations.EveryByteDecodesInEveryState := by
  unfold Obligations.EveryByteDecodesInEveryState
  exact ⟨decode_space_byte, fun r => ⟨_, decode_port r⟩, fun _ => rfl, decode_space_request⟩

/-! ### Rows that are not selected (R62) -/

theorem whenSelected_of_not {i : Instr} {s t : State} (h : s.space.selects i = false) :
    whenSelected i s t = .refused .notSelected := by
  simp [whenSelected, h]

theorem onSysexFrame_of_not {i : Instr} {s : State} {handler : List Byte → Reaction}
    (h : ∀ sub data, s.out.frame = some (.sysex sub data) → decodeSubcommand sub ≠ i) :
    onSysexFrame i s handler = .refused .notSelected := by
  unfold onSysexFrame
  split
  · next sub data hf => exact if_neg (h sub data hf)
  · rfl
  · rfl

/-- A byte row is guarded by its space; `endSysex_complete` also stops where there is no `col[0]`. -/
theorem exec_byteRow {i : Instr} (hport : Space.port.selects i = false)
    (hsub : Space.subcommand.selects i = false) (s : State) :
    exec i s = .refused .notSelected ∨ ∃ t, exec i s = whenSelected i s t := by
  by_cases hidle : Space.idle.selects i = true
  · exact .inr ⟨_, exec_eq_idleEffect hidle s⟩
  cases i
  case endSysex_complete =>
    cases hcol : s.col with
    | nil => exact .inl (by simp [exec, execEndSysexComplete, hcol])
    | cons sub data =>
      exact .inr ⟨(s.emitFrame (.sysex sub data)).backToIdle, by simp [exec, execEndSysexComplete, hcol]⟩
  case channelData_first | channelData_second | endSysex_empty | sysexData | sysexData_oversized =>
    exact .inr ⟨_, rfl⟩
  all_goals simp [Space.selects] at hport hsub hidle

/-- Settles O6: a byte row by its guard, a sub-command row by the frame it looks for. -/
theorem rowsStopWhereTheyAreNotSelected : Obligations.RowsStopWhereTheyAreNotSelected := by
  unfold Obligations.RowsStopWhereTheyAreNotSelected
  refine ⟨?byteRow, ?subcommandRow⟩
  case byteRow =>
    intro i s hport hsub hspace
    rcases exec_byteRow hport hsub s with hstop | ⟨t, hguard⟩
    · exact hstop
    · rw [hguard, whenSelected_of_not hspace]
  case subcommandRow =>
    intro i s hsub hframe
    obtain ⟨handler, hrow⟩ := exec_eq_onSysexFrame hsub s
    rw [hrow, onSysexFrame_of_not hframe]

/-- Settles O8: the port decodes a request to `decodeRequest`, which is what `step` runs. -/
theorem stepRunsTheRequestedOperation : Obligations.StepRunsTheRequestedOperation := by
  unfold Obligations.StepRunsTheRequestedOperation
  intro s r rest i hp hdec
  obtain rfl := Except.ok.inj hdec
  exact step_request hp

end Sys2Proof.Machine
end

section
namespace Sys2Proof

/-! ### Splitting and joining pairs are inverse within 14 bits (R65, R66, R71) -/

theorem join14_splitLo_splitHi {v : U16} (hv : v.toNat ≤ 16383) : join14 (splitLo v) (splitHi v) = v := by
  have hlo := splitLo_toNat v
  have hhi := splitHi_toNat hv
  apply BitVec.eq_of_toNat_eq
  rw [join14_toNat_of_7bit (by omega), hlo, hhi]
  omega

/-- R71 item 3 on the primitives: both groups of a split are 7 bits wide, and 7-bit bytes join within range. -/
theorem split_join14_iff (lo hi : Byte) :
    ((join14 lo hi).toNat ≤ 16383 ∧ splitLo (join14 lo hi) = lo ∧ splitHi (join14 lo hi) = hi) ↔
      lo.toNat ≤ 127 ∧ hi.toNat ≤ 127 := by
  constructor
  · rintro ⟨hrange, hlo, hhi⟩
    have hlo' := splitLo_toNat (join14 lo hi)
    have hhi' := splitHi_toNat hrange
    rw [hlo] at hlo'
    rw [hhi] at hhi'
    omega
  · rintro ⟨hlo, hhi⟩
    have hjoin : (join14 lo hi).toNat = lo.toNat + 128 * hi.toNat := join14_toNat_of_7bit (by omega)
    have hrange : (join14 lo hi).toNat ≤ 16383 := by omega
    refine ⟨hrange, BitVec.eq_of_toNat_eq ?_, BitVec.eq_of_toNat_eq ?_⟩
    · rw [splitLo_toNat]; omega
    · rw [splitHi_toNat hrange]; omega

theorem splitPairs_eq_flatMap (vs : List U16) :
    splitPairs vs = vs.flatMap fun v => [splitLo v, splitHi v] := by
  induction vs with
  | nil => rfl
  | cons v vs ih => simp [ih]

theorem joinPairs_splitPairs {vs : List U16} (hvs : ∀ v ∈ vs, v.toNat ≤ 16383) :
    joinPairs (splitPairs vs) = vs := by
  induction vs with
  | nil => rfl
  | cons v vs ih =>
    obtain ⟨hv, hvs⟩ := List.forall_mem_cons.mp hvs
    rw [splitPairs_cons, joinPairs_cons_cons, join14_splitLo_splitHi hv, ih hvs]

/-- Code `k` of a joined text is the join of pair `k` (R69). -/
theorem joinPairs_getElem? : ∀ (bytes : List Byte) (k : Nat) {lo hi : Byte},
    bytes[2 * k]? = some lo → bytes[2 * k + 1]? = some hi → (joinPairs bytes)[k]? = some (join14 lo hi)
  | [], _, _, _, hlo, _ => by simp at hlo
  | [_], _, _, _, _, hhi => by simp at hhi
  | _ :: _ :: _, 0, _, _, hlo, hhi => by
    obtain rfl := Option.some.inj hlo
    obtain rfl := Option.some.inj hhi
    rfl
  | _ :: _ :: rest, k + 1, _, _, hlo, hhi => joinPairs_getElem? rest k hlo hhi

end Sys2Proof
end

section
namespace Sys2Proof.Machine

/-! ### What each operation of the codec answers (R67 to R70) -/

theorem outOfRange_eq_true_iff {vs : List U16} : outOfRange vs = true ↔ ∃ v ∈ vs, 16383 < v := by
  simp [outOfRange, BitVec.lt_def]

theorem outOfRange_eq_false_iff {vs : List U16} : outOfRange vs = false ↔ ∀ v ∈ vs, v ≤ 16383 := by
  simp [outOfRange, BitVec.le_def]

theorem encodeValue_eq_ok_iff {vs : List U16} {bytes : List Byte} :
    encodeValue vs = .ok bytes ↔ (∀ v ∈ vs, v ≤ 16383) ∧ splitPairs vs = bytes := by
  rw [← outOfRange_eq_false_iff]
  cases h : outOfRange vs with
  | false => simp [encodeValue, h]
  | true => simp [encodeValue, h]

theorem encodeValue_of_outOfRange {vs : List U16} (h : ∃ v ∈ vs, 16383 < v) :
    encodeValue vs = .error .valueOutOfRange := by
  simp [encodeValue, outOfRange_eq_true_iff.mpr h]

/-- R70: a text is encoded as the list of its codes. -/
theorem encodeString_eq_encodeValue (text : List U16) : encodeString text = encodeValue text := rfl

theorem decodeString_of_odd {bytes : List Byte} (h : bytes.length % 2 = 1) :
    decodeString bytes = .error .invalidStringLength := by
  simp [decodeString, oddLength, h]

theorem decodeString_of_even {bytes : List Byte} (h : bytes.length % 2 = 0) :
    decodeString bytes = .ok (joinPairs bytes) := by
  simp [decodeString, oddLength, h]

/-- A result is the response, and nothing else is driven (R21, R73). -/
theorem answer_of_ok {α : Type} {r : Except Condition α} {a : α} (h : r = .ok a) (op : PortOp)
    (mk : α → Answer) (s : State) :
    answer op (r.map mk) s = { s with out := { s.out with resp := some ⟨op, mk a⟩ } } := by
  subst h; rfl

/-- A reported error is the response and the `err` transaction (R20, R21, log 10). -/
theorem answer_of_error {α : Type} {r : Except Condition α} {c : Condition} (h : r = .error c)
    (hc : c.reported = true) (op : PortOp) (mk : α → Answer) (s : State) :
    answer op (r.map mk) s =
      { s with out := { s.out with resp := some ⟨op, .failed c⟩, err := some c } } := by
  subst h
  exact State.raise_reported _ hc

/-- Settles O45: two bytes are a result, one or none the error of `decodeValue`. -/
theorem decodeValueAnswersTheJoin : Obligations.DecodeValueAnswersTheJoin := by
  unfold Obligations.DecodeValueAnswersTheJoin
  intro s b0 b1
  refine ⟨congrArg Host.Outcome.next ?two, congrArg Host.Outcome.next ?one,
    congrArg Host.Outcome.next ?none⟩
  case two => exact answer_of_ok (r := decodeValue (.two b0 b1)) rfl _ _ s
  case one => exact answer_of_error (r := decodeValue (.one b0)) rfl rfl _ _ s
  case none => exact answer_of_error (r := decodeValue .empty) rfl rfl _ _ s

/-- Settles O46: the two operations encode alike, and whether they fail is whether some element is out of
range. -/
theorem encodersAnswerPairsOrFail : Obligations.EncodersAnswerPairsOrFail := by
  unfold Obligations.EncodersAnswerPairsOrFail
  intro s vs
  refine ⟨?pairs, ?failure⟩
  case pairs =>
    intro hrange bytes
    have henc : encodeValue vs = .ok bytes :=
      encodeValue_eq_ok_iff.mpr ⟨hrange, splitPairs_eq_flatMap vs⟩
    have hstring : encodeString vs = .ok bytes := (encodeString_eq_encodeValue vs).trans henc
    exact ⟨congrArg Host.Outcome.next (answer_of_ok henc _ _ s),
      congrArg Host.Outcome.next (answer_of_ok hstring _ _ s)⟩
  case failure =>
    intro hexceeds
    have henc : encodeValue vs = .error .valueOutOfRange := encodeValue_of_outOfRange hexceeds
    have hstring : encodeString vs = .error .valueOutOfRange :=
      (encodeString_eq_encodeValue vs).trans henc
    exact ⟨congrArg Host.Outcome.next (answer_of_error henc rfl _ _ s),
      congrArg Host.Outcome.next (answer_of_error hstring rfl _ _ s)⟩

/-- Settles O47: by the parity of the length; the text is `joinPairs`, read pair by pair. -/
theorem decodeStringAnswersOneCodeAPair : Obligations.DecodeStringAnswersOneCodeAPair := by
  unfold Obligations.DecodeStringAnswersOneCodeAPair
  intro s bytes
  refine ⟨?odd, ?even⟩
  case odd =>
    intro hodd
    exact congrArg Host.Outcome.next (answer_of_error (decodeString_of_odd hodd) rfl _ _ s)
  case even =>
    intro heven
    refine ⟨joinPairs bytes, congrArg Host.Outcome.next ?_, joinPairs_length bytes, ?_⟩
    · exact answer_of_ok (decodeString_of_even heven) _ _ s
    · intro k lo hi hlo hhi
      exact joinPairs_getElem? bytes k hlo hhi

/-! ### The round trips (R71) -/

theorem decodeString_splitPairs {text : List U16} (h : ∀ c ∈ text, c ≤ 16383) :
    decodeString (splitPairs text) = .ok text := by
  rw [decodeString_of_even (by simp), joinPairs_splitPairs h]

/-- R71 item 3: `split_join14_iff` through `encodeValue`. -/
theorem encodeValue_join14_iff (lo hi : Byte) :
    encodeValue [join14 lo hi] = .ok [lo, hi] ↔ lo ≤ 0x7F ∧ hi ≤ 0x7F := by
  rw [encodeValue_eq_ok_iff]
  simpa [BitVec.le_def] using split_join14_iff lo hi

/-- Settles O48: joining undoes splitting for values and texts, and splitting undoes joining on 7-bit bytes. -/
theorem codecRoundTrips : Obligations.CodecRoundTrips := by
  unfold Obligations.CodecRoundTrips
  refine ⟨?value, ?text, encodeValue_join14_iff⟩
  case value =>
    intro v hv
    exact ⟨splitLo v, splitHi v,
      encodeValue_eq_ok_iff.mpr ⟨List.forall_mem_singleton.mpr hv, rfl⟩,
      congrArg Except.ok (join14_splitLo_splitHi hv)⟩
  case text =>
    intro text htext
    have henc : encodeString text = .ok (splitPairs text) :=
      (encodeString_eq_encodeValue text).trans (encodeValue_eq_ok_iff.mpr ⟨htext, rfl⟩)
    exact ⟨splitPairs text, henc, decodeString_splitPairs htext⟩

/-! ### Requests (R73) -/

/-- The transactions of a request's step are fixed by the request, before any state is looked at. -/
theorem step_request_of_any_state (r : Request) :
    ∃ p : Ports, p.resp ≠ none ∧ p.frame = none ∧ p.event = none ∧
      ∀ (s : State) (rest : List Input), s.pending = .request r :: rest →
        step s = .next { s with pending := rest, out := p } := by
  obtain ⟨f, hresp, hrest, hexec⟩ := exec_decodeRequest r
  obtain ⟨hframe, hevent⟩ := hrest Ports.quiet
  refine ⟨f Ports.quiet, hresp _, hframe, hevent, fun s rest hp => ?_⟩
  exact (step_request hp).trans (hexec (s.take rest))

/-- Settles O18: the transactions of `step_request_of_any_state` serve both states. -/
theorem pureOperationsNeitherObserveNorDisturb : Obligations.PureOperationsNeitherObserveNorDisturb := by
  unfold Obligations.PureOperationsNeitherObserveNorDisturb
  intro r s t rs rt hs ht
  obtain ⟨p, hresp, hframe, hevent, hstep⟩ := step_request_of_any_state r
  exact ⟨p, hresp, hframe, hevent, hstep s rs hs, hstep t rt ht⟩

end Sys2Proof.Machine
end

section
namespace Sys2Proof.Machine

/-! ### The rows of `Idle`, decoded and run (R80 to R89) -/

/-- Settles O7: `accept` is the state the byte is processed in. -/
theorem stepRunsTheDecodedByte : Obligations.StepRunsTheDecodedByte := by
  unfold Obligations.StepRunsTheDecodedByte
  intro s b rest i hp hdec
  exact (step_rx hp).trans (runByte_eq b (s := s.accept rest) hdec)

theorem decode_of_idle {s : State} (hs : s.st = .idle) (b : Byte) :
    decode s.space (.byte b) = .ok (decodeIdle b) := by
  rw [s.space_idle hs]
  exact decode_idle b

theorem exec_of_idle {i : Instr} {s : State} (hi : Space.idle.selects i = true) (hs : s.st = .idle) :
    exec i s = .next (idleEffect i s) := by
  rw [exec_eq_idleEffect hi, whenSelected_of (by rw [s.space_idle hs]; exact hi)]

/-- Settles O24: the decoder is `decodeIdle_commandByte`, and each row's effect is `beginChannel`. -/
theorem channelCommandsBeginCollection : Obligations.ChannelCommandsBeginCollection := by
  unfold Obligations.ChannelCommandsBeginCollection
  intro s ch hs
  obtain ⟨hdigital, hreportAnalog, hreportDigital, hanalog⟩ := decodeIdle_commandByte ch
  have hdec : ∀ {b : Byte} {i : Instr}, decodeIdle b = i → decode s.space (.byte b) = .ok i :=
    fun h => (decode_of_idle hs _).trans (congrArg Except.ok h)
  exact ⟨⟨hdec hdigital, exec_of_idle rfl hs⟩, ⟨hdec hreportAnalog, exec_of_idle rfl hs⟩,
    ⟨hdec hreportDigital, exec_of_idle rfl hs⟩, ⟨hdec hanalog, exec_of_idle rfl hs⟩⟩

/-- Settles O25: the byte's row, whose effect is `beginChannel` with channel 0. -/
theorem setPinModeBeginsCollection : Obligations.SetPinModeBeginsCollection := by
  unfold Obligations.SetPinModeBeginsCollection
  intro s hs
  exact ⟨decode_of_idle hs 0xF4, exec_of_idle rfl hs⟩

/-- Settles O26: the effect of either row is its frame on the port. -/
theorem immediateCommandsEmitAtOnce : Obligations.ImmediateCommandsEmitAtOnce := by
  unfold Obligations.ImmediateCommandsEmitAtOnce
  intro s hs
  exact ⟨exec_of_idle rfl hs, exec_of_idle rfl hs⟩

/-- Settles O29: the byte's row, which has no effect. -/
theorem strayEndMarkerIsDropped : Obligations.StrayEndMarkerIsDropped := by
  unfold Obligations.StrayEndMarkerIsDropped
  intro s hs
  exact ⟨decode_of_idle hs 0xF7, exec_of_idle rfl hs⟩

/-! ### Unknown bytes (R53, R89) -/

/-- The fourteen rows of the bytes that R53 calls unknown. -/
def isUnknownRow : Instr → Bool
  | .unknown_00_7F _ | .unknown_80_8F _ | .unknown_A0_BF _ | .unknown_F1 | .unknown_F2 | .unknown_F3
  | .unknown_F5 | .unknown_F6 | .unknown_F8 | .unknown_FA | .unknown_FB | .unknown_FC | .unknown_FD
  | .unknown_FE => true
  | _ => false

/-- R53's last line: what is no fixed command and in no channel base is unknown. -/
theorem isUnknownRow_decodeIdle : ∀ b : Byte, b ∉ ([0xF0, 0xF4, 0xF7, 0xF9, 0xFF] : List Byte) →
    b &&& 0xF0 ∉ ([0x90, 0xC0, 0xD0, 0xE0] : List Byte) → isUnknownRow (decodeIdle b) = true := by
  decide

theorem idleEffect_of_isUnknownRow {i : Instr} (hi : isUnknownRow i = true) (s : State) :
    idleEffect i s = s := by
  cases i
  case digitalMessage | reportAnalog | reportDigital | analogMessage | setPinMode | startSysex
      | reportVersion | systemReset =>
    exact absurd hi Bool.false_ne_true
  all_goals rfl

/-- Settles O28: an unknown row has no effect, and its step emits no frame for the attached decoder. -/
theorem unknownBytesAreDropped : Obligations.UnknownBytesAreDropped := by
  unfold Obligations.UnknownBytesAreDropped
  intro s x7 x4 x5 hs
  refine ⟨exec_of_idle rfl hs, exec_of_idle rfl hs, exec_of_idle rfl hs, exec_of_idle rfl hs,
    exec_of_idle rfl hs, exec_of_idle rfl hs, exec_of_idle rfl hs, exec_of_idle rfl hs,
    exec_of_idle rfl hs, exec_of_idle rfl hs, exec_of_idle rfl hs, exec_of_idle rfl hs,
    exec_of_idle rfl hs, exec_of_idle rfl hs, ?step⟩
  case step =>
    intro b rest hp hfixed hbase
    have hrow := isUnknownRow_decodeIdle b hfixed hbase
    rw [step_rx hp, runByte_eq_idleEffect b (s := s.accept rest) hs, idleEffect_of_isUnknownRow hrow]
    exact attachedDecoder_none rfl

end Sys2Proof.Machine
end

section
namespace Sys2Proof.Machine

/-! ### The channel track (R90, R91) -/

theorem exec_channelData_first {s : State} (hs : s.st = .awaitingChannelData) (hlen : s.col.length ≠ 1)
    (d : Byte) : exec (.channelData_first d) s = .next (s.append d) :=
  whenSelected_of (by simp [s.space_channelData hs, Space.selects, hlen])

theorem exec_channelData_second {s : State} (hs : s.st = .awaitingChannelData) (hlen : s.col.length = 1)
    (d : Byte) : exec (.channelData_second d) s = .next (s.append d).completeChannel :=
  whenSelected_of (by simp [s.space_channelData hs, Space.selects, hlen])

theorem step_channelData_first {s : State} {d : Byte} {rest : List Input}
    (hp : s.pending = .rx d :: rest) (hs : s.st = .awaitingChannelData) (hlen : s.col.length ≠ 1) :
    step s = .next ((s.accept rest).append d) :=
  (step_rx hp).trans (runByte_channelData_first d (s := s.accept rest) hs hlen rfl)

/-- R91 with the byte of R90 stored: the frame has both bytes, in order. -/
theorem completeChannel_append {s : State} {d0 : Byte} (hcol : s.col = [d0]) (d1 : Byte) :
    (s.append d1).completeChannel =
      { s with out := { s.out with frame := some (.channel s.cmd s.chan [d0, d1]) },
               col := [], st := .idle } := by
  have hdata : (s.append d1).col = [d0, d1] := by rw [State.append_col, hcol]; rfl
  unfold State.completeChannel
  rw [hdata]
  rfl

/-- The whole step of the completing byte: its frame, one event, and `Idle` with `cmd` and `chan` kept. -/
theorem step_channelData_second {s : State} {d0 d1 : Byte} {rest : List Input}
    (hp : s.pending = .rx d1 :: rest) (hs : s.st = .awaitingChannelData) (hcol : s.col = [d0])
    (hcmd : isChannelCommand s.cmd) :
    ∃ e, step s = .next
      { s with st := .idle, col := [], pos := s.pos + 1, pending := rest,
               out := { frame := some (.channel s.cmd s.chan [d0, d1]), event := some e,
                        err := none, resp := none } } := by
  obtain ⟨e, he⟩ := channelReaction_event s.chan d0 d1 hcmd
  have hrun := runByte_channelData_second d1 (s := s.accept rest) hs hcol
  rw [completeChannel_append (s := s.accept rest) hcol] at hrun
  refine ⟨e, ?_⟩
  rw [step_rx hp, hrun, State.accept_cmd, State.accept_chan, he]
  rfl

/-- Settles O30: any number of bytes but one selects the row that stores. -/
theorem firstDataByteIsStored : Obligations.FirstDataByteIsStored := by
  unfold Obligations.FirstDataByteIsStored
  intro s d hs hlen
  refine ⟨?_, exec_channelData_first hs hlen d⟩
  simp [s.space_channelData hs, decodeChannelData, hlen]

/-- Settles O31: one byte held selects the row that completes; the whole step is `step_channelData_second`. -/
theorem secondDataByteCompletesTheFrame : Obligations.SecondDataByteCompletesTheFrame := by
  unfold Obligations.SecondDataByteCompletesTheFrame
  intro s d0 d1 hs hcol
  have hlen : s.col.length = 1 := by rw [hcol]; rfl
  refine ⟨?decode, ?exec, ?step⟩
  case decode => simp [s.space_channelData hs, decodeChannelData, hlen]
  case exec => rw [exec_channelData_second hs hlen, completeChannel_append hcol]
  case step =>
    intro rest hp hcmd
    obtain ⟨e, hstep⟩ := step_channelData_second hp hs hcol hcmd
    exact ⟨_, e, hstep, rfl, rfl, rfl, rfl, rfl⟩

/-! ### Frames (R38, R96) -/

/-- Settles O17: four of the ways of `runByte_cases` emit a frame; two of them leave a state in `Idle` as it
is, and two return to `Idle`. -/
theorem framesComeFromFourRulesAndEndInIdle : Obligations.FramesComeFromFourRulesAndEndInIdle := by
  unfold Obligations.FramesComeFromFourRulesAndEndInIdle
  intro s t b rest hp hstep hframe
  obtain ⟨t', ht', hcases⟩ := runByte_cases b (s := s.accept rest) rfl
  obtain rfl : t' = t := by simpa [step_rx hp, ht'] using hstep
  rcases hcases with ⟨-, c, ch, -, -, rfl⟩ | ⟨hs, hb, rfl⟩ | ⟨hs, hb, rfl⟩ | ⟨-, rfl⟩ | ⟨-, rfl⟩ |
    ⟨-, -, rfl⟩ | ⟨hs, d0, hcol, rfl⟩ | ⟨-, -, -, rfl⟩ | ⟨-, -, -, rfl⟩ | ⟨-, -, -, rfl⟩ |
    ⟨hs, hb, sub, data, hcol, rfl⟩
  · exact absurd rfl hframe
  · exact ⟨.inl ⟨hs, .inl hb⟩, hs, fun ⟨hidle, _⟩ => hidle hs⟩
  · exact ⟨.inl ⟨hs, .inr hb⟩, hs, fun ⟨hidle, _⟩ => hidle hs⟩
  · exact absurd rfl hframe
  · exact absurd rfl hframe
  · exact absurd rfl hframe
  · exact ⟨.inr (.inl ⟨hs, List.length_eq_one_iff.mpr ⟨d0, hcol⟩⟩), react_st _ _, fun _ => react_col _ _⟩
  · exact absurd rfl hframe
  · exact absurd rfl hframe
  · exact absurd rfl hframe
  · exact ⟨.inr (.inr ⟨hs, hb, List.ne_nil_of_mem (hcol ▸ List.mem_cons_self)⟩), react_st _ _,
      fun _ => react_col _ _⟩

end Sys2Proof.Machine
end

section
namespace Sys2Proof.Machine

/-! ### Rows that write the buffer (R31, R38) -/

/-- Settles O58: both rows are `append`. -/
theorem frameOfRowsThatStoreAByte : Obligations.FrameOfRowsThatStoreAByte := by
  unfold Obligations.FrameOfRowsThatStoreAByte
  intro d s t h
  obtain rfl : t = s.append d := by
    rcases h with h | h
    · exact (whenSelected_next_iff.mp h).2
    · exact (whenSelected_next_iff.mp h).2
  exact ⟨readByte_append_new s d, fun a ha => readByte_append_other s d ha,
    rfl, rfl, rfl, rfl, rfl, rfl, rfl⟩

theorem exec_endSysex_complete_next {s t : State} (h : exec .endSysex_complete s = .next t) :
    ∃ sub data, t = (s.emitFrame (.sysex sub data)).backToIdle := by
  simp only [exec, execEndSysexComplete] at h
  split at h
  · exact nomatch h
  · next sub data _ => exact ⟨sub, data, (whenSelected_next_iff.mp h).2⟩

/-- The row of R103 runs with nothing collected, so leaving `col` as it is leaves it empty. -/
theorem exec_endSysex_empty_next {s t : State} (h : exec .endSysex_empty s = .next t) :
    s.col = [] ∧ t = s.goto .idle := by
  obtain ⟨hsel, ht⟩ := whenSelected_next_iff.mp h
  refine ⟨?_, ht⟩
  cases hst : s.st with
  | idle => simp [s.space_idle hst, Space.selects] at hsel
  | awaitingChannelData => simp [s.space_channelData hst, Space.selects] at hsel
  | awaitingSysex => simpa [s.space_sysex hst, Space.selects] using hsel

/-- Settles O59: by the row. Each ends with `col` empty; the five channel-track commands are `beginChannel`,
and the others write no command register. -/
theorem frameOfRowsThatBeginOrEndAFrame : Obligations.FrameOfRowsThatBeginOrEndAFrame := by
  unfold Obligations.FrameOfRowsThatBeginOrEndAFrame
  intro i s t hi h
  cases i
  case digitalMessage | reportAnalog | reportDigital | analogMessage | setPinMode =>
    obtain rfl := exec_idle_next rfl h
    exact ⟨readByte_nil, trivial, rfl, rfl, rfl, rfl, rfl⟩
  case startSysex =>
    obtain rfl := exec_idle_next rfl h
    exact ⟨readByte_nil, ⟨rfl, rfl⟩, rfl, rfl, rfl, rfl, rfl⟩
  case channelData_second d =>
    obtain ⟨-, rfl⟩ := whenSelected_next_iff.mp h
    exact ⟨readByte_nil, ⟨rfl, rfl⟩, rfl, rfl, rfl, rfl, rfl⟩
  case endSysex_complete =>
    obtain ⟨sub, data, rfl⟩ := exec_endSysex_complete_next h
    exact ⟨readByte_nil, ⟨rfl, rfl⟩, rfl, rfl, rfl, rfl, rfl⟩
  case endSysex_empty =>
    obtain ⟨hcol, rfl⟩ := exec_endSysex_empty_next h
    exact ⟨by simp [hcol], ⟨rfl, rfl⟩, rfl, rfl, rfl, rfl, rfl⟩
  case sysexData_oversized d =>
    obtain ⟨-, rfl⟩ := whenSelected_next_iff.mp h
    exact ⟨readByte_nil, ⟨rfl, rfl⟩, rfl, rfl, rfl, rfl, rfl⟩
  all_goals exact hi.elim

end Sys2Proof.Machine
end

section
namespace Sys2Proof.Machine

/-! ### `write`, byte by byte (R93, R94) -/

@[simp] theorem State.offer_nil (s : State) : s.offer [] = s := by
  simp [State.offer]

@[simp] theorem write_nil (s : State) : write [] s = ([], s) := by
  simp [write]

/-- R93: the first byte's step does not read the bytes offered behind it (`runByte_withPending`), and they
are what the rest of the chunk offers. -/
theorem write_cons {b : Byte} {s t : State} (hp : s.pending = [])
    (hstep : step (s.withPending [.rx b]) = .next t) (bs : List Byte) :
    write (b :: bs) s = (t.out :: (write bs t).1, (write bs t).2) := by
  obtain ⟨-, hempty, -⟩ := step_rx_bookkeeping (s := s.withPending [.rx b]) rfl hstep
  have hoffer : t.withPending (bs.map .rx) = t.offer bs := by
    simp [State.withPending, State.offer, hempty]
  have hfirst : step (s.offer (b :: bs)) = .next (t.offer bs) := by
    have hpending : (s.offer (b :: bs)).pending = .rx b :: bs.map .rx := by simp [hp]
    have hrun : runByte b (s.accept []) = .next t := hstep
    calc step (s.offer (b :: bs))
        = runByte b ((s.accept []).withPending (bs.map .rx)) := step_rx hpending
      _ = .next (t.withPending (bs.map .rx)) := by rw [runByte_withPending, hrun]; rfl
      _ = .next (t.offer bs) := by rw [hoffer]
  exact run_succ hfirst

/-- Settles O22: `write_nil` and `write_cons`. -/
theorem writeIsTheStepsOfItsBytes : Obligations.WriteIsTheStepsOfItsBytes := by
  unfold Obligations.WriteIsTheStepsOfItsBytes
  exact ⟨write_nil, fun b bs s t hp hstep => write_cons hp hstep bs⟩

/-- Settles O23: by induction on the first part; its first byte is taken alike in both writes, and leaves
nothing offered. -/
theorem chunkBoundariesCarryNoMeaning : Obligations.ChunkBoundariesCarryNoMeaning := by
  unfold Obligations.ChunkBoundariesCarryNoMeaning
  intro a b s hp
  induction a generalizing s with
  | nil => simp
  | cons x a ih =>
    obtain ⟨t, hstep⟩ := stepAlwaysAnswersNext (s.withPending [.rx x])
    obtain ⟨-, hempty, -⟩ := step_rx_bookkeeping (s := s.withPending [.rx x]) rfl hstep
    rw [List.cons_append, write_cons hp hstep, write_cons hp hstep, ih t hempty]
    rfl

/-! ### A channel command and its two bytes (R92, R183) -/

/-- R46, R81 to R84: the byte of a channel base and a channel begins collection with the two. -/
theorem idleEffect_commandByte {base : Byte} (hbase : base ∈ ([0x90, 0xC0, 0xD0, 0xE0] : List Byte))
    (ch : U4) (s : State) :
    idleEffect (decodeIdle (commandByte base ch)) s = s.beginChannel base ch := by
  obtain ⟨hdigital, hreportAnalog, hreportDigital, hanalog⟩ := decodeIdle_commandByte ch
  simp only [List.mem_cons, List.not_mem_nil, or_false] at hbase
  rcases hbase with rfl | rfl | rfl | rfl
  · exact congrArg (idleEffect · s) hdigital
  · exact congrArg (idleEffect · s) hreportAnalog
  · exact congrArg (idleEffect · s) hreportDigital
  · exact congrArg (idleEffect · s) hanalog

theorem step_commandByte {s : State} {base : Byte} {ch : U4} {rest : List Input}
    (hp : s.pending = .rx (commandByte base ch) :: rest) (hs : s.st = .idle)
    (hbase : base ∈ ([0x90, 0xC0, 0xD0, 0xE0] : List Byte)) :
    step s = .next ((s.accept rest).beginChannel base ch) := by
  rw [step_rx hp, runByte_eq_idleEffect _ (s := s.accept rest) hs, idleEffect_commandByte hbase]
  exact attachedDecoder_none rfl

theorem isChannelCommand_of_base : ∀ base ∈ ([0x90, 0xC0, 0xD0, 0xE0] : List Byte),
    isChannelCommand base := by decide

/-- Settles O34: the steps of the three bytes, put together by `write_cons`. -/
theorem nothingInterruptsTheChannelTrack : Obligations.NothingInterruptsTheChannelTrack := by
  unfold Obligations.NothingInterruptsTheChannelTrack
  intro s base ch d0 d1 hs hp hbase
  let t := (s.accept []).beginChannel base ch
  let u := (t.accept []).append d0
  have hcommand : step (s.withPending [.rx (commandByte base ch)]) = .next t :=
    step_commandByte rfl hs hbase
  have hfirst : step (t.withPending [.rx d0]) = .next u :=
    step_channelData_first (s := t.withPending [.rx d0]) rfl rfl Nat.zero_ne_one
  obtain ⟨e, hsecond⟩ := step_channelData_second (s := u.withPending [.rx d1]) (d0 := d0) rfl rfl rfl
    (isChannelCommand_of_base base hbase)
  have hbyte : base ||| ch.setWidth 8 = commandByte base ch := rfl
  refine ⟨e, ?_⟩
  rw [hbyte, write_cons hp hcommand, write_cons rfl hfirst, write_cons rfl hsecond, write_nil, hs, hp]
  rfl

end Sys2Proof.Machine
end

section
namespace Sys2Proof

/-! ### The bound `SYSEX_MAX` (R101, R104) -/

@[simp] theorem Limit.above_atMost (m n : Nat) : (Limit.atMost m).above n = decide (n < m) := rfl

/-- Below a length that fits, one more byte fits. -/
theorem Limit.above_of_holds {lim : Limit} {n m : Nat} (h : lim.holds m = true) (hlt : n < m) :
    lim.above n = true := by
  cases lim with
  | unbounded => rfl
  | atMost k =>
    have hle : m ≤ k := of_decide_eq_true h
    exact decide_eq_true (hlt.trans_le hle)

end Sys2Proof
end

section
namespace Sys2Proof.Machine

/-! ### Which row of the sysex track a byte selects (R62, R101 to R104) -/

theorem selects_sysexData {s : State} {d : Byte} (hs : s.st = .awaitingSysex) (hd : d ≠ Wire.endSysex)
    (hroom : s.cfg.sysexMax.above s.col.length = true) : s.space.selects (.sysexData d) = true := by
  rw [s.space_sysex hs]
  exact Bool.and_eq_true_iff.mpr ⟨bne_iff_ne.mpr hd, hroom⟩

theorem selects_sysexData_oversized {s : State} {d : Byte} (hs : s.st = .awaitingSysex)
    (hd : d ≠ Wire.endSysex) (hfull : s.cfg.sysexMax.above s.col.length = false) :
    s.space.selects (.sysexData_oversized d) = true := by
  rw [s.space_sysex hs]
  exact Bool.and_eq_true_iff.mpr ⟨bne_iff_ne.mpr hd, congrArg Bool.not hfull⟩

theorem selects_endSysex_complete {s : State} {sub : Byte} {data : List Byte}
    (hs : s.st = .awaitingSysex) (hcol : s.col = sub :: data) :
    s.space.selects .endSysex_complete = true := by
  rw [s.space_sysex hs, hcol]
  rfl

theorem selects_endSysex_empty {s : State} (hs : s.st = .awaitingSysex) (hcol : s.col = []) :
    s.space.selects .endSysex_empty = true := by
  rw [s.space_sysex hs, hcol]
  rfl

/-- A row selected on the sysex track is the row its code decodes to. -/
theorem decode_of_sysex {s : State} {i : Instr} (hs : s.st = .awaitingSysex)
    (hi : s.space.selects i = true) : decode s.space (encode i) = .ok i := by
  rw [s.space_sysex hs] at hi ⊢
  exact decode_sysex_encode hi

theorem exec_endSysex_complete {s : State} {sub : Byte} {data : List Byte}
    (hs : s.st = .awaitingSysex) (hcol : s.col = sub :: data) :
    exec .endSysex_complete s = .next (s.emitFrame (.sysex sub data)).backToIdle := by
  have hrow : exec .endSysex_complete s =
      whenSelected .endSysex_complete s (s.emitFrame (.sysex sub data)).backToIdle := by
    simp only [exec, execEndSysexComplete, hcol]
  rw [hrow, whenSelected_of (selects_endSysex_complete hs hcol)]

/-! ### The whole steps of the sysex track (R80, R100 to R102) -/

theorem step_startSysex {s : State} {rest : List Input} (hp : s.pending = .rx Wire.startSysex :: rest)
    (hs : s.st = .idle) : step s = .next ((s.accept rest).clearBuffer.goto .awaitingSysex) := by
  rw [step_rx hp, runByte_eq_idleEffect _ (s := s.accept rest) hs]
  exact attachedDecoder_none rfl

theorem step_sysexData {s : State} {d : Byte} {rest : List Input} (hp : s.pending = .rx d :: rest)
    (hs : s.st = .awaitingSysex) (hd : d ≠ Wire.endSysex)
    (hroom : s.cfg.sysexMax.above s.col.length = true) :
    step s = .next ((s.accept rest).append d) :=
  (step_rx hp).trans (runByte_sysexData d (s := s.accept rest) hs hd hroom rfl)

theorem step_endSysex_complete {s : State} {sub : Byte} {data : List Byte} {rest : List Input}
    (hp : s.pending = .rx Wire.endSysex :: rest) (hs : s.st = .awaitingSysex)
    (hcol : s.col = sub :: data) :
    step s = .next (react ((s.accept rest).emitFrame (.sysex sub data)).backToIdle
      (sysexReaction sub data)) :=
  (step_rx hp).trans (runByte_endSysex_complete (s := s.accept rest) hs hcol)

/-- R129: a handler drives the event port or the error port, never both. -/
theorem react_event_none_or_err_none {s : State} (hevent : s.out.event = none) (herr : s.out.err = none)
    (r : Reaction) : (react s r).out.event = none ∨ (react s r).out.err = none := by
  cases r with
  | nothing => exact .inl hevent
  | event e => exact .inr herr
  | error c => exact .inl ((s.raise_event c).trans hevent)

/-! ### The rows of the sysex track, decoded and run (R100 to R104) -/

/-- Settles O35: the row of `Idle` whose effect opens the track. -/
theorem startSysexOpensAFrame : Obligations.StartSysexOpensAFrame := by
  unfold Obligations.StartSysexOpensAFrame
  intro s hs
  exact ⟨decode_of_idle hs 0xF0, exec_of_idle rfl hs⟩

/-- Settles O36: with room in the buffer, by either kind of bound, the byte selects the row that stores it. -/
theorem sysexDataIsStored : Obligations.SysexDataIsStored := by
  unfold Obligations.SysexDataIsStored
  intro s d hs hd hbound
  have hroom : s.cfg.sysexMax.above s.col.length = true := by
    cases hmax : s.cfg.sysexMax with
    | unbounded => rfl
    | atMost n =>
      rw [hmax] at hbound
      exact decide_eq_true hbound
  have hsel := selects_sysexData hs hd hroom
  exact ⟨decode_of_sysex hs hsel, whenSelected_of hsel⟩

/-- Settles O37: at the bound there is no room, so the byte selects the row that raises. -/
theorem oversizedSysexIsAbandoned : Obligations.OversizedSysexIsAbandoned := by
  unfold Obligations.OversizedSysexIsAbandoned
  intro s d n hs hd hmax hlen
  have hfull : s.cfg.sysexMax.above s.col.length = false := by simp [hmax, hlen]
  have hsel := selects_sysexData_oversized hs hd hfull
  exact ⟨decode_of_sysex hs hsel, whenSelected_of hsel⟩

/-- Settles O38: the row by its selection; in the whole step the handler of the frame adds at most one of an
event and an error (`react_event_none_or_err_none`). -/
theorem endMarkerCompletesTheSysexFrame : Obligations.EndMarkerCompletesTheSysexFrame := by
  unfold Obligations.EndMarkerCompletesTheSysexFrame
  intro s sub data hs hcol
  refine ⟨decode_of_sysex hs (selects_endSysex_complete hs hcol), exec_endSysex_complete hs hcol, ?step⟩
  case step =>
    intro rest hp
    exact ⟨_, step_endSysex_complete hp hs hcol, react_st _ _, react_col _ _, react_cmd _ _,
      react_chan _ _, react_out_frame _ _, react_event_none_or_err_none rfl rfl _⟩

/-- Settles O39: with nothing collected the marker selects the row that only returns to `Idle`. -/
theorem emptySysexIsDropped : Obligations.EmptySysexIsDropped := by
  unfold Obligations.EmptySysexIsDropped
  intro s hs hcol
  have hsel := selects_endSysex_empty hs hcol
  exact ⟨decode_of_sysex hs hsel, whenSelected_of hsel⟩

/-- Settles O53: the row's response is `wrapSysex`, which is this list of bytes. -/
theorem sysexWrapAnswersTheFraming : Obligations.SysexWrapAnswersTheFraming := by
  unfold Obligations.SysexWrapAnswersTheFraming
  intro s sub payload
  rfl

/-! ### The loop-back law (R109) -/

/-- R101, R182: the bytes of an open sysex are collected in order, silently, while they fit. -/
theorem write_sysexData {s : State} {bs : List Byte} (hs : s.st = .awaitingSysex) (hp : s.pending = [])
    (ho : s.out = Ports.quiet) (hbs : ∀ b ∈ bs, b ≠ Wire.endSysex)
    (hfit : s.cfg.sysexMax.holds (s.col.length + bs.length) = true) :
    write bs s = (List.replicate bs.length Ports.quiet,
      { s with col := s.col ++ bs, pos := s.pos + bs.length }) := by
  induction bs generalizing s with
  | nil => simp
  | cons b bs ih =>
    obtain ⟨hb, hbs⟩ := List.forall_mem_cons.mp hbs
    rw [List.length_cons] at hfit
    have hroom : s.cfg.sysexMax.above s.col.length = true := Limit.above_of_holds hfit (by omega)
    have hstep : step (s.withPending [.rx b]) = .next ((s.accept []).append b) :=
      step_sysexData (s := s.withPending [.rx b]) rfl hs hb hroom
    have hrest := ih (s := (s.accept []).append b) hs rfl rfl hbs (by
      simpa [Nat.add_assoc, Nat.add_comm 1] using hfit)
    rw [write_cons hp hstep, hrest]
    simp [List.replicate_succ, State.append, State.accept, hp, ho, Nat.add_assoc, Nat.add_comm 1]

/-- R102: the end marker alone gives the frame of what is held, in one step that ends in `Idle`. -/
theorem write_endSysex {s : State} {sub : Byte} {data : List Byte} (hs : s.st = .awaitingSysex)
    (hp : s.pending = []) (hcol : s.col = sub :: data) :
    ∃ t, write [Wire.endSysex] s = ([t.out], t) ∧
      t.out.frame = some (.sysex sub data) ∧ t.st = .idle ∧ t.col = [] := by
  have hstep := step_endSysex_complete (s := s.withPending [.rx Wire.endSysex]) rfl hs hcol
  exact ⟨_, (write_cons hp hstep []).trans (by rw [write_nil]), react_out_frame _ _, react_st _ _,
    react_col _ _⟩

/-- On a newly opened track: `write_sysexData`, then `write_endSysex`. -/
theorem write_sysexBody {s : State} {sub : Byte} {payload : List Byte} (hs : s.st = .awaitingSysex)
    (hp : s.pending = []) (ho : s.out = Ports.quiet) (hcol : s.col = [])
    (hbytes : ∀ b ∈ sub :: payload, b ≠ Wire.endSysex)
    (hfit : s.cfg.sysexMax.holds (payload.length + 1) = true) :
    ∃ t, write ((sub :: payload) ++ [Wire.endSysex]) s =
        (List.replicate (payload.length + 1) Ports.quiet ++ [t.out], t) ∧
      t.out.frame = some (.sysex sub payload) ∧ t.st = .idle ∧ t.col = [] := by
  have hcollect := write_sysexData hs hp ho hbytes (by simpa [hcol] using hfit)
  obtain ⟨t, hclose, hend⟩ := write_endSysex (s := (write (sub :: payload) s).2) (sub := sub)
    (data := payload) (by rw [hcollect]; exact hs) (by rw [hcollect]; exact hp) (by simp [hcollect, hcol])
  refine ⟨t, ?_, hend⟩
  rw [chunkBoundariesCarryNoMeaning _ _ _ hp, hclose, hcollect]
  rfl

theorem wrapSysex_eq (sub : Byte) (payload : List Byte) :
    wrapSysex sub payload = Wire.startSysex :: ((sub :: payload) ++ [Wire.endSysex]) := rfl

/-- R107, R109: the start marker opens the track silently, and the rest is `write_sysexBody`. -/
theorem write_wrapSysex {s : State} {sub : Byte} {payload : List Byte} (hs : s.st = .idle)
    (hp : s.pending = []) (hbytes : ∀ b ∈ sub :: payload, b ≠ Wire.endSysex)
    (hfit : s.cfg.sysexMax.holds (payload.length + 1) = true) :
    ∃ t, write (wrapSysex sub payload) s =
        (List.replicate (payload.length + 2) Ports.quiet ++ [t.out], t) ∧
      t.out.frame = some (.sysex sub payload) ∧ t.st = .idle ∧ t.col = [] := by
  have hopen := step_startSysex (s := s.withPending [.rx Wire.startSysex]) rfl hs
  obtain ⟨t, hbody, hend⟩ := write_sysexBody
    (s := ((s.withPending [.rx Wire.startSysex]).accept []).clearBuffer.goto .awaitingSysex)
    rfl rfl rfl rfl hbytes hfit
  refine ⟨t, ?_, hend⟩
  rw [wrapSysex_eq, write_cons hp hopen, hbody]
  rfl

/-- Settles O54: `write_wrapSysex`, with the bound as `Limit.holds`. -/
theorem loopBackGivesTheFrameBack : Obligations.LoopBackGivesTheFrameBack := by
  unfold Obligations.LoopBackGivesTheFrameBack
  intro s sub payload hs hp hsub hpayload hbound
  have hfit : s.cfg.sysexMax.holds (payload.length + 1) = true := by
    cases hmax : s.cfg.sysexMax with
    | unbounded => rfl
    | atMost n =>
      rw [hmax] at hbound
      exact decide_eq_true (Nat.add_comm 1 _ ▸ hbound)
  obtain ⟨t, hwrite, hframe, hst, hcol⟩ :=
    write_wrapSysex hs hp (List.forall_mem_cons.mpr ⟨hsub, hpayload⟩) hfit
  rw [hwrite]
  exact ⟨t.out, hframe, rfl, hst, hcol⟩

end Sys2Proof.Machine
end

section
namespace Sys2Proof.Machine

/-! ### What a byte's step puts on the ports (R129, R158, R159) -/

/-- R129 with the cause of each error: `OversizedFrame` comes alone, and `InvalidStringLength` with a
`stringData` frame of odd payload. -/
def Ports.InboundShape (p : Ports) : Prop :=
  p.inboundLegal ∧
    (p.err ≠ none →
      (p.frame = none ∧ p.err = some .oversizedFrame) ∨
      (∃ data, p.frame = some (.sysex Wire.stringData data) ∧ data.length % 2 = 1 ∧
        p.err = some .invalidStringLength))

theorem Ports.InboundShape.of_no_error {p : Ports} (hresp : p.resp = none) (herr : p.err = none)
    (hevent : p.event ≠ none → p.frame ≠ none) : p.InboundShape :=
  ⟨⟨hresp, fun h => ⟨hevent h, herr⟩⟩, fun h => absurd herr h⟩

theorem Ports.InboundShape.of_quiet {p : Ports} (h : p = Ports.quiet) : p.InboundShape := by
  subst h
  exact .of_no_error rfl rfl fun h => absurd rfl h

theorem Ports.InboundShape.of_oversized {p : Ports}
    (h : p = { Ports.quiet with err := some .oversizedFrame }) : p.InboundShape := by
  subst h
  exact ⟨⟨rfl, (absurd rfl ·)⟩, fun _ => .inl ⟨rfl, rfl⟩⟩

/-- With a frame alone on the ports, a handler that yields nothing or an event keeps the shape. -/
theorem react_inboundShape {u : State} {f : Frame} {r : Reaction}
    (hu : u.out = { Ports.quiet with frame := some f }) (hr : r = .nothing ∨ ∃ e, r = .event e) :
    (react u r).out.InboundShape := by
  have hframe : (react u r).out.frame ≠ none := by simp [hu]
  refine .of_no_error (by simp [hu]) ?_ (fun _ => hframe)
  rcases hr with rfl | ⟨e, rfl⟩
  · simp [hu]
  · simp [hu]

/-- A sysex frame's handler keeps the shape: its one error is that of R124. -/
theorem react_sysexReaction_inboundShape {u : State} {sub : Byte} {data : List Byte}
    (hu : u.out = { Ports.quiet with frame := some (.sysex sub data) }) :
    (react u (sysexReaction sub data)).out.InboundShape := by
  rcases sysexReaction_cases sub data with hr | hr | ⟨rfl, hodd, hr⟩
  · exact react_inboundShape hu (.inl hr)
  · exact react_inboundShape hu (.inr hr)
  · rw [hr, react_error, State.raise_reported u rfl, hu]
    exact ⟨⟨rfl, (absurd rfl ·)⟩, fun _ => .inr ⟨data, rfl, hodd, rfl⟩⟩

/-- R129 for the step of a byte, by the eleven ways of `runByte_cases`. -/
theorem runByte_inboundShape {b : Byte} {s t : State} (ho : s.out = Ports.quiet)
    (hrun : runByte b s = .next t) : t.out.InboundShape := by
  obtain ⟨t', ht', hcases⟩ := runByte_cases b ho
  obtain rfl : t' = t := by simpa [ht'] using hrun
  rcases hcases with ⟨-, c, ch, -, -, rfl⟩ | ⟨-, -, rfl⟩ | ⟨-, -, rfl⟩ | ⟨-, rfl⟩ | ⟨-, rfl⟩ |
    ⟨-, -, rfl⟩ | ⟨-, d0, hcol, rfl⟩ | ⟨-, -, -, rfl⟩ | ⟨-, -, -, rfl⟩ | ⟨-, -, -, rfl⟩ |
    ⟨-, -, sub, data, -, rfl⟩
  · exact .of_quiet ho
  · exact react_inboundShape (u := s.emitFrame _) (by rw [← ho]; rfl) (.inr ⟨_, rfl⟩)
  · exact react_inboundShape (u := s.emitFrame _) (by rw [← ho]; rfl) (.inr ⟨_, rfl⟩)
  · exact .of_quiet ho
  · exact .of_quiet ho
  · exact .of_quiet ho
  · exact react_inboundShape (by rw [← ho]; rfl) (channelReaction_cases _ _ d0 b)
  · exact .of_quiet ho
  · exact .of_oversized (by simp [ho, State.raise_reported])
  · exact .of_quiet ho
  · exact react_sysexReaction_inboundShape (by rw [← ho]; rfl)

/-- Settles O16: `runByte_inboundShape`, from the quiet ports a byte is accepted with. -/
theorem inboundOutputsAreOneOfFive : Obligations.InboundOutputsAreOneOfFive := by
  unfold Obligations.InboundOutputsAreOneOfFive
  intro s t b rest hp hstep
  obtain ⟨⟨hresp, hevent⟩, herr⟩ :=
    runByte_inboundShape (s := s.accept rest) rfl (step_rx hp ▸ hstep)
  exact ⟨hresp, hevent, herr⟩

end Sys2Proof.Machine
end

section
namespace Sys2Proof.Machine

/-! ### The attached decoder and the handlers of channel frames (R115 to R122) -/

/-- Settles O9: without a frame nothing runs; the sub-command place decodes to `decodeSubcommand`. -/
theorem attachedDecoderRunsTheSubcommandRow : Obligations.AttachedDecoderRunsTheSubcommandRow := by
  unfold Obligations.AttachedDecoderRunsTheSubcommandRow
  refine ⟨fun s => attachedDecoder_none, ?sysex⟩
  case sysex =>
    intro s sub data i hframe hdec
    simp only [attachedDecoder, hframe, hdec]

/-- R80, R86, R87: a command that is complete at once gives its frame and, in the same step, its event. -/
theorem step_immediate {s : State} {b : Byte} {e : Event} {rest : List Input}
    (hp : s.pending = .rx b :: rest) (hs : s.st = .idle)
    (heffect : ∀ u, idleEffect (decodeIdle b) u = u.emitFrame (.channel b 0 []))
    (hevent : channelReaction b 0 [] = .event e) :
    step s = .next (((s.accept rest).emitFrame (.channel b 0 [])).emitEvent e) := by
  rw [step_rx hp, runByte_eq_idleEffect b (s := s.accept rest) hs, heffect,
    attachedDecoder_channel (s := (s.accept rest).emitFrame _) rfl, hevent, react_event]

/-- Settles O27: both rows emit their frame at once, and R116 and R120 name its event. -/
theorem immediateCommandsAreReportedAsEvents : Obligations.ImmediateCommandsAreReportedAsEvents := by
  unfold Obligations.ImmediateCommandsAreReportedAsEvents
  intro s rest hs
  exact ⟨fun hp => step_immediate hp hs (fun _ => rfl) rfl,
    fun hp => step_immediate hp hs (fun _ => rfl) rfl⟩

/-- A channel frame's handler leaves the error port as it is (R117 to R122, R158). -/
theorem react_channelReaction_err (u : State) (c : Byte) (ch : U4) (d0 d1 : Byte) :
    (react u (channelReaction c ch [d0, d1])).out.err = u.out.err := by
  rcases channelReaction_cases c ch d0 d1 with hr | ⟨e, hr⟩
  · rw [hr, react_nothing]
  · rw [hr, react_event, State.emitEvent_out]

/-- R80, R91, R115: the byte that completes a channel frame emits it without error, and the event its handler
yields comes out in the same step. -/
theorem step_completes_channelFrame {s : State} {d0 d1 : Byte} {rest : List Input}
    (hp : s.pending = .rx d1 :: rest) (hs : s.st = .awaitingChannelData) (hcol : s.col = [d0]) :
    ∃ t, step s = .next t ∧ t.out.frame = some (.channel s.cmd s.chan [d0, d1]) ∧ t.out.err = none ∧
      ∀ {c e}, s.cmd = c → channelReaction c s.chan [d0, d1] = .event e → t.out.event = some e := by
  have hrun := runByte_channelData_second d1 (s := s.accept rest) hs hcol
  rw [completeChannel_append (s := s.accept rest) hcol] at hrun
  refine ⟨_, (step_rx hp).trans hrun, react_out_frame _ _, react_channelReaction_err _ _ _ _ _, ?event⟩
  case event =>
    rintro c e rfl hr
    rw [State.accept_cmd, State.accept_chan, hr]; rfl

/-- Settles O32: the handler's event, where the command is one of the three. -/
theorem valueAndModeFramesBecomeEvents : Obligations.ValueAndModeFramesBecomeEvents := by
  unfold Obligations.ValueAndModeFramesBecomeEvents
  intro s d0 d1 rest hs hcol hp
  obtain ⟨t, hstep, hframe, herr, hevent⟩ := step_completes_channelFrame hp hs hcol
  exact ⟨t, join14 d0 d1, hstep, hframe, herr, rfl, fun hcmd => hevent hcmd rfl,
    fun hcmd => hevent hcmd rfl, fun hcmd => hevent hcmd rfl⟩

/-- Settles O33: the handler's event, where the command is one of the two. -/
theorem reportFramesIgnoreTheSecondByte : Obligations.ReportFramesIgnoreTheSecondByte := by
  unfold Obligations.ReportFramesIgnoreTheSecondByte
  intro s d0 d1 rest hs hcol hp
  obtain ⟨t, hstep, -, herr, hevent⟩ := step_completes_channelFrame hp hs hcol
  exact ⟨t, hstep, herr, fun hcmd => hevent hcmd rfl, fun hcmd => hevent hcmd rfl⟩

end Sys2Proof.Machine
end

section
namespace Sys2Proof.Machine

/-! ### The sub-command rows (R123 to R127) -/

theorem stringReaction_of_odd {data : List Byte} (h : data.length % 2 = 1) :
    stringReaction data = .error .invalidStringLength := by
  simp only [stringReaction, decodeString_of_odd h]

theorem stringReaction_of_even {data : List Byte} (h : data.length % 2 = 0) :
    stringReaction data = .event (.stringData (joinPairs data)) := by
  simp only [stringReaction, decodeString_of_even h]

/-- Settles O41: the row reacts with `stringReaction`; by the parity of the payload's length. -/
theorem stringDataRowDecodesThePayload : Obligations.StringDataRowDecodesThePayload := by
  unfold Obligations.StringDataRowDecodesThePayload
  intro s data hframe
  have hrow : exec .stringData s = .next (react s (stringReaction data)) := onSysexFrame_of hframe rfl
  rcases Nat.mod_two_eq_zero_or_one data.length with heven | hodd
  · rw [hrow, stringReaction_of_even heven, decodeString_of_even heven]; rfl
  · rw [hrow, stringReaction_of_odd hodd, decodeString_of_odd hodd]; rfl

/-- Settles O42: the step of the end marker (R102), whose handler is `stringReaction`. -/
theorem stringMessageYieldsTextOrError : Obligations.StringMessageYieldsTextOrError := by
  unfold Obligations.StringMessageYieldsTextOrError
  intro s data rest hs hcol hp
  refine ⟨_, step_endSysex_complete hp hs hcol, react_st _ _, react_col _ _, react_out_frame _ _,
    ?odd, ?even⟩
  case odd =>
    intro hodd
    have hr : sysexReaction 0x71 data = .error .invalidStringLength := stringReaction_of_odd hodd
    rw [hr]
    exact ⟨rfl, rfl⟩
  case even =>
    intro heven
    have hr : sysexReaction 0x71 data = .event (.stringData (joinPairs data)) :=
      stringReaction_of_even heven
    rw [hr]
    exact ⟨rfl, joinPairs data, decodeString_of_even heven, rfl, joinPairs_length data⟩

/-- Settles O43: each row's handler is its event, whatever the payload. -/
theorem argumentlessSubcommandRows : Obligations.ArgumentlessSubcommandRows := by
  unfold Obligations.ArgumentlessSubcommandRows
  intro s data
  exact ⟨fun hframe => onSysexFrame_of hframe rfl, fun hframe => onSysexFrame_of hframe rfl,
    fun hframe => onSysexFrame_of hframe rfl⟩

/-- R115, R127: a command outside the table has no handler, whatever the frame's data. -/
theorem channelReaction_of_unhandled {c : Byte}
    (hc : c ∉ ([0x90, 0xC0, 0xD0, 0xE0, 0xF4, 0xF9, 0xFF] : List Byte)) (ch : U4) (data : List Byte) :
    channelReaction c ch data = .nothing := by
  simp only [List.mem_cons, List.not_mem_nil, or_false, not_or] at hc
  obtain ⟨hdigital, hreportAnalog, hreportDigital, hanalog, hpinMode, hversion, hreset⟩ := hc
  match data with
  | [] => simp only [channelReaction, if_neg hversion, if_neg hreset]
  | [_] => rfl
  | [_, _] =>
    simp only [channelReaction, if_neg hanalog, if_neg hdigital, if_neg hpinMode,
      if_neg hreportAnalog, if_neg hreportDigital]
  | _ :: _ :: _ :: _ => rfl

/-- Settles O44: a sub-command row whose handler yields nothing is a drop; an unnamed value selects the
catch-all row, and an unhandled command yields nothing. -/
theorem framesWithoutAHandlerAreDropped : Obligations.FramesWithoutAHandlerAreDropped := by
  unfold Obligations.FramesWithoutAHandlerAreDropped
  intro s data
  refine ⟨fun hframe => onSysexFrame_of hframe rfl, fun hframe => onSysexFrame_of hframe rfl,
    ?unnamed, ?channel⟩
  case unnamed =>
    intro x hx hframe
    have hunnamed : namedSubcommands.contains x = false :=
      Bool.eq_false_of_not_eq_true fun h => hx (List.contains_iff_mem.mp h)
    exact onSysexFrame_of hframe (decodeSubcommand_of_unnamed x hunnamed)
  case channel =>
    intro c ch hc hframe
    rw [attachedDecoder_channel hframe, channelReaction_of_unhandled hc, react_nothing]

end Sys2Proof.Machine
end

section
namespace Sys2Proof.Machine

/-! ### What each builder answers (R136 to R142) -/

theorem modePair_eq_flatMap (mode : Byte) (r : Option Byte) :
    modePair mode r = r.toList.flatMap fun k => [mode, k] := by
  cases r with
  | none => rfl
  | some k => rfl

theorem pinMapping_of_mapped {p : PinCapability} {k : Byte} (hanalog : p.analog ≠ none)
    (hmap : p.analogMap = some k) : pinMapping p = k := by
  obtain ⟨r, hr⟩ := Option.ne_none_iff_exists'.mp hanalog
  simp only [pinMapping, hr, hmap]

theorem pinMapping_of_unmapped {p : PinCapability} (h : p.analog = none ∨ p.analogMap = none) :
    pinMapping p = Wire.terminator := by
  rcases h with hanalog | hmap
  · simp only [pinMapping, hanalog]
  · cases hanalog : p.analog with
    | none => simp only [pinMapping, hanalog]
    | some r => simp only [pinMapping, hanalog, hmap]

/-- Settles O51: a mode with a resolution is written as its pair (`modePair_eq_flatMap`), and the report's parts
stand in the order of the statement. -/
theorem capabilityResponseAnswersTheReport : Obligations.CapabilityResponseAnswersTheReport := by
  unfold Obligations.CapabilityResponseAnswersTheReport
  intro s pins
  simp only [← modePair_eq_flatMap]
  rfl

/-- Settles O52: the body is `pinMapping` of each pin, whose two cases are the statement's. -/
theorem analogMappingAnswersOneByteAPin : Obligations.AnalogMappingAnswersOneByteAPin := by
  unfold Obligations.AnalogMappingAnswersOneByteAPin
  intro s pins
  refine ⟨pins.map pinMapping, rfl, List.length_map pinMapping, ?byte⟩
  case byte =>
    intro n p hp
    have hbyte : (pins.map pinMapping)[n]? = some (pinMapping p) := by rw [List.getElem?_map, hp]; rfl
    rw [hbyte]
    exact ⟨fun k hanalog hmap => congrArg some (pinMapping_of_mapped hanalog hmap),
      fun h => congrArg some (pinMapping_of_unmapped h)⟩

/-- Settles O49: the row's response is the three constants of R49. -/
theorem firmataVersionAnswersThreeBytes : Obligations.FirmataVersionAnswersThreeBytes := by
  unfold Obligations.FirmataVersionAnswersThreeBytes
  intro s
  rfl

/-- Settles O50: no code of the name exceeds 14 bits, so `encodeString` answers its pairs, which the builder
wraps. -/
theorem firmwareVersionAnswersTheName : Obligations.FirmwareVersionAnswersTheName := by
  unfold Obligations.FirmwareVersionAnswersTheName
  have hname : encodeString Wire.firmwareName = .ok (splitPairs Wire.firmwareName) :=
    encodeValue_eq_ok_iff.mpr ⟨outOfRange_eq_false_iff.mp (by decide), rfl⟩
  exact ⟨_, hname, fun s => rfl⟩

end Sys2Proof.Machine
end

section
namespace Sys2Proof.Machine

/-! ### A frame of the sysex track and its handler, anywhere in a `write` (R115, R131) -/

/-- The one way of `runByte_cases` that emits a sysex frame runs that frame's handler. -/
theorem runByte_of_sysexFrame {b : Byte} {s t : State} {sub : Byte} {data : List Byte}
    (ho : s.out = Ports.quiet) (hrun : runByte b s = .next t)
    (hframe : t.out.frame = some (.sysex sub data)) :
    ∃ u : State, u.out = { Ports.quiet with frame := some (.sysex sub data) } ∧
      t = react u (sysexReaction sub data) := by
  obtain ⟨t', ht', hcases⟩ := runByte_cases b ho
  obtain rfl : t' = t := by simpa [ht'] using hrun
  rcases hcases with ⟨-, c, ch, -, -, rfl⟩ | ⟨-, -, rfl⟩ | ⟨-, -, rfl⟩ | ⟨-, rfl⟩ | ⟨-, rfl⟩ |
    ⟨-, -, rfl⟩ | ⟨-, d0, -, rfl⟩ | ⟨-, -, -, rfl⟩ | ⟨-, -, -, rfl⟩ | ⟨-, -, -, rfl⟩ |
    ⟨-, -, sub', data', -, rfl⟩
  case inr.inr.inr.inr.inr.inr.inr.inr.inr.inr =>
    obtain ⟨rfl, rfl⟩ : sub' = sub ∧ data' = data := by simpa using hframe
    exact ⟨_, by rw [← ho]; rfl, rfl⟩
  all_goals simp [ho] at hframe

/-- R93: each output of a `write` is that of one byte's step, taken from quiet ports. -/
theorem mem_write {bs : List Byte} {s : State} {p : Ports} (hp : s.pending = [])
    (hmem : p ∈ (write bs s).1) :
    ∃ (b : Byte) (u t : State), u.out = Ports.quiet ∧ runByte b u = .next t ∧ p = t.out := by
  induction bs generalizing s with
  | nil => simp at hmem
  | cons b bs ih =>
    obtain ⟨t, hstep⟩ := stepAlwaysAnswersNext (s.withPending [.rx b])
    obtain ⟨-, hempty, -⟩ := step_rx_bookkeeping (s := s.withPending [.rx b]) rfl hstep
    rw [write_cons hp hstep] at hmem
    rcases List.mem_cons.mp hmem with hhead | htail
    · exact ⟨b, s.accept [], t, rfl, hstep, hhead⟩
    · exact ih hempty htail

/-- R127: where the handler yields nothing, the frame comes without an event. -/
theorem write_event_of_unhandled {bs : List Byte} {s : State} {p : Ports} {sub : Byte}
    {data : List Byte} (hp : s.pending = []) (hmem : p ∈ (write bs s).1)
    (hframe : p.frame = some (.sysex sub data)) (hr : sysexReaction sub data = .nothing) :
    p.event = none := by
  obtain ⟨b, u, t, ho, hrun, rfl⟩ := mem_write hp hmem
  obtain ⟨v, hv, rfl⟩ := runByte_of_sysexFrame ho hrun hframe
  rw [hr, react_nothing, hv]
  rfl

/-! ### The pin reports fed back (R143) -/

theorem framesOf_quiet_then (n : Nat) (p : Ports) :
    framesOf (List.replicate n Ports.quiet ++ [p]) = p.frame.toList := by
  cases h : p.frame with
  | none => simp [framesOf, h]
  | some _ => simp [framesOf, h]

theorem eventsOf_quiet_then (n : Nat) (p : Ports) :
    eventsOf (List.replicate n Ports.quiet ++ [p]) = p.event.toList := by
  cases h : p.event with
  | none => simp [eventsOf, h]
  | some _ => simp [eventsOf, h]

/-- R109, R127: a wrapped payload with no handler gives its frame and no event. -/
theorem write_wrapSysex_of_unhandled {s : State} {sub : Byte} {payload : List Byte}
    (hs : s.st = .idle) (hp : s.pending = []) (hmax : s.cfg.sysexMax = .unbounded)
    (hbytes : ∀ b ∈ sub :: payload, b ≠ Wire.endSysex) (hr : sysexReaction sub payload = .nothing) :
    framesOf (write (wrapSysex sub payload) s).1 = [.sysex sub payload] ∧
      eventsOf (write (wrapSysex sub payload) s).1 = [] := by
  obtain ⟨t, hwrite, hframe, -⟩ := write_wrapSysex hs hp hbytes (by rw [hmax]; rfl)
  have hmem : t.out ∈ (write (wrapSysex sub payload) s).1 := by simp [hwrite]
  have hevent : t.out.event = none := write_event_of_unhandled hp hmem hframe hr
  rw [hwrite, framesOf_quiet_then, eventsOf_quiet_then, hframe, hevent]
  exact ⟨rfl, rfl⟩

theorem ne_endSysex_of_mem_modePair {mode b : Byte} {r : Option Byte} (hmode : mode ≠ Wire.endSysex)
    (hr : r ≠ some Wire.endSysex) (hb : b ∈ modePair mode r) : b ≠ Wire.endSysex := by
  cases r with
  | none => simp [modePair] at hb
  | some k =>
    have hk : k ≠ Wire.endSysex := fun h => hr (congrArg some h)
    rcases List.mem_pair.mp hb with rfl | rfl
    · exact hmode
    · exact hk

/-- R141: with no resolution `0xF7` a pin's report holds no end marker. -/
theorem ne_endSysex_of_mem_pinReport {p : PinCapability} {b : Byte}
    (hanalog : p.analog ≠ some Wire.endSysex) (hpwm : p.pwm ≠ some Wire.endSysex)
    (hservo : p.servo ≠ some Wire.endSysex) (hb : b ∈ pinReport p) : b ≠ Wire.endSysex := by
  have hdigital : ∀ d : Bool, ∀ x ∈ (if d then [Wire.pinInput, 1, Wire.pinOutput, 1] else []),
      x ≠ Wire.endSysex := by decide
  have hi2c : ∀ c : Bool, ∀ x ∈ (if c then [Wire.pinI2C, 1] else []), x ≠ Wire.endSysex := by decide
  simp only [pinReport, List.mem_append] at hb
  rcases hb with ((((hb | hb) | hb) | hb) | hb) | hb
  · exact hdigital p.digital b hb
  · exact ne_endSysex_of_mem_modePair (by decide) hanalog hb
  · exact ne_endSysex_of_mem_modePair (by decide) hpwm hb
  · exact ne_endSysex_of_mem_modePair (by decide) hservo hb
  · exact hi2c p.i2c b hb
  · rw [List.mem_singleton.mp hb]
    decide

/-- R141: with no index `0xF7` a pin's byte of the mapping is no end marker. -/
theorem pinMapping_ne_endSysex {p : PinCapability} (hmap : p.analogMap ≠ some Wire.endSysex) :
    pinMapping p ≠ Wire.endSysex := by
  by_cases h : p.analog = none ∨ p.analogMap = none
  · rw [pinMapping_of_unmapped h]
    decide
  · obtain ⟨hanalog, hsome⟩ := not_or.mp h
    obtain ⟨k, hk⟩ := Option.ne_none_iff_exists'.mp hsome
    rw [pinMapping_of_mapped hanalog hk]
    exact fun hk' => hmap (hk.trans (congrArg some hk'))

/-- Settles O55: neither report holds an end marker and neither sub-command has a handler, so
`write_wrapSysex_of_unhandled` applies to both. -/
theorem pinReportsLoopBackWithoutEvents : Obligations.PinReportsLoopBackWithoutEvents := by
  unfold Obligations.PinReportsLoopBackWithoutEvents
  intro s pins hs hp hpins hmax
  have hreport : ∀ b ∈ pins.flatMap pinReport, b ≠ Wire.endSysex := by
    intro b hb
    obtain ⟨p, hpin, hb⟩ := List.mem_flatMap.mp hb
    obtain ⟨hanalog, hpwm, hservo, -⟩ := hpins p hpin
    exact ne_endSysex_of_mem_pinReport hanalog hpwm hservo hb
  have hmapping : ∀ b ∈ pins.map pinMapping, b ≠ Wire.endSysex := by
    intro b hb
    obtain ⟨p, hpin, rfl⟩ := List.mem_map.mp hb
    obtain ⟨-, -, -, hmap⟩ := hpins p hpin
    exact pinMapping_ne_endSysex hmap
  obtain ⟨hcapFrames, hcapEvents⟩ := write_wrapSysex_of_unhandled (sub := Wire.capabilityResponse)
    hs hp hmax (List.forall_mem_cons.mpr ⟨by decide, hreport⟩) rfl
  obtain ⟨hmapFrames, hmapEvents⟩ := write_wrapSysex_of_unhandled (sub := Wire.analogMappingResponse)
    hs hp hmax (List.forall_mem_cons.mpr ⟨by decide, hmapping⟩) rfl
  exact ⟨⟨_, hcapFrames⟩, hcapEvents, ⟨_, hmapFrames, List.length_map pinMapping⟩, hmapEvents⟩

end Sys2Proof.Machine
end

section
namespace Sys2Proof.Machine

/-! ### Reset, and a sysex that is never ended (R175 to R178, R182) -/

/-- Settles O11: the step is `applyReset` of the state that has taken the input, and `applyReset` keeps only
the parameter and what is still offered. -/
theorem resetInputGivesTheResetState : Obligations.ResetInputGivesTheResetState := by
  unfold Obligations.ResetInputGivesTheResetState
  intro s rest hp
  exact step_rst hp

/-- Settles O40: `write_sysexData`, with the bound as `Limit.holds`. -/
theorem openSysexCapturesTheStream : Obligations.OpenSysexCapturesTheStream := by
  unfold Obligations.OpenSysexCapturesTheStream
  intro bs s hs hp ho hbs hbound
  have hfit : s.cfg.sysexMax.holds (s.col.length + bs.length) = true := by
    cases hmax : s.cfg.sysexMax with
    | unbounded => rfl
    | atMost n =>
      rw [hmax] at hbound
      exact decide_eq_true hbound
  exact write_sysexData hs hp ho hbs hfit

end Sys2Proof.Machine
end

section
namespace Sys2Proof.Machine

/-! ### A step with nothing offered (R164) -/

/-- Taking an input changes only what is offered and the ports: where the rest is what was offered already,
only the ports. -/
theorem State.take_of_pending {s : State} {rest : List Input} (hp : s.pending = rest) :
    s.take rest = { s with out := Ports.quiet } := by
  subst hp
  rfl

/-- Settles O10: with nothing offered the step is `take []`, and nothing offered is what stays offered. -/
theorem nothingOfferedChangesNothing : Obligations.NothingOfferedChangesNothing := by
  unfold Obligations.NothingOfferedChangesNothing
  intro s hp
  calc step s = .next (s.take []) := step_nil hp
    _ = .next { s with out := Ports.quiet } := congrArg _ (State.take_of_pending hp)

end Sys2Proof.Machine
end
